-- ==== Sys2Proof/Word.lean ====
section
/-!
DEFINITION. The word types of the block: a host data word, a byte of a buffer register, a register address.
Bits are numbered from bit 0, the least significant, upward (00_scope.md R6), which is `BitVec.getLsbD`.
-/

namespace Sys2Proof

/-- The 16-bit word one host transaction moves (20_memory.md R37). -/
abbrev Word := BitVec 16

/-- One byte of a frame or of a buffer register (00_scope.md R7). -/
abbrev Byte := BitVec 8

/-- An address of the host register space: 8 bits, 256 locations (20_memory.md R30). -/
abbrev Addr := BitVec 8

end Sys2Proof
end

