-- ==== Sys2Proof/Syntax.lean ====
section
/-!
DEFINITION. What can be said to the block: its four operations, the names of its registers, the host's transactions,
and the lines of a host program (30_encoding.md §1 and §5, 10_state.md R10).
-/

namespace Sys2Proof

/-- The four operations of the command register, one constructor per row of spec/opcode_table.json (30_encoding.md R47).
Each carries the command word's bits [15:2], which R46 has ignored: no meaning reads them, but they are kept so that
encoding gives back the very word (log 9). -/
inductive Instr where
  | nop    (ignored : BitVec 14)
  | pack   (ignored : BitVec 14)
  | unpack (ignored : BitVec 14)
  | verify (ignored : BitVec 14)
  deriving DecidableEq, Repr

/-- The output side of one operation unit (00_scope.md §6 "Channel"): TX is PACK's, RX is UNPACK's, VF is VERIFY's. -/
inductive Channel where
  | tx | rx | vf
  deriving DecidableEq, Repr

/-- The ten bit fields of the configuration frame, in the order of 30_encoding.md R52. Each has one input register,
F_CLKF to F_DEBUG (10_state.md R22). -/
inductive Field where
  | clkf | clkr | clkod | bwadj | chipX | chipY | delay | width | mask | debugMode
  deriving DecidableEq, Repr

/-- What an address of the host register space names (20_memory.md R30). The spec counts buffer bytes from 1; an index
here counts from 0, so `ce k` is CE[k+1], and likewise for the other buffers. Words of T_L2BUSY and T_L2DONE are counted
from 0 as R40 counts them. -/
inductive Reg where
  | cmd
  | status (c : Channel)
  | rxLen
  | expLen
  | rcvLen
  | ce (k : Fin 8)
  | field (f : Field)
  | txFrame (k : Fin 15)
  | rxBuf (k : Fin 19)
  | tL5
  | tL4
  | tL3
  | tL2Busy (w : Fin 4)
  | tL2Done (w : Fin 4)
  | expBuf (i : Fin 64)
  | rcvBuf (i : Fin 64)
  | reserved
  deriving DecidableEq, Repr

/-- One host transaction as it stands on the port: `HostWrite(a, d)`, `HostRead(a)` or `RESET`
(20_memory.md R31 and R32, 70_reset_and_hazards.md R84). -/
inductive Transaction where
  | write (a : Addr) (d : Word)
  | read (a : Addr)
  | reset
  deriving DecidableEq, Repr

/-- The name a program gives to a value it read, written with these letters (30_encoding.md R59). -/
abbrev Name := List Char

/-- The data operand of a write line: a number, or the name of a value read earlier (30_encoding.md R59, R60 `COPYTX`). -/
inductive Datum where
  | lit (d : Word)
  | named (n : Name)
  deriving DecidableEq, Repr

/-- One line of a host program that is one transaction: `WR a, d`, `RD a`, `RD a -> n`, `RESET` (30_encoding.md R59). -/
inductive Line where
  | write (a : Addr) (d : Datum)
  | read (a : Addr) (bind : Option Name)
  | reset
  deriving DecidableEq, Repr

/-- A source line: a plain line, an operation by its mnemonic (R59), or a pseudo-instruction (30_encoding.md R60).
`setCe` has the spec's own k, which runs from 1 to 8. -/
inductive Source where
  | line (l : Line)
  | nop
  | pack
  | unpack
  | verify
  | setCe (k : Nat) (b : Datum)
  | setField (f : Field) (v : Datum)
  | loadRx (bs : List Datum)
  | loadExp (bs : List Datum)
  | loadRcv (bs : List Datum)
  | copyTx
  deriving DecidableEq, Repr

end Sys2Proof
end

