-- ==== Sys2Proof/Decode.lean ====
section
/-!
DEFINITION. The command word, both ways (30_encoding.md R46 and R47): OP in bits [1:0], bits [15:2] ignored.
Decoding is total and refuses nothing, because R47 has no illegal command word.
-/

namespace Sys2Proof

/-- OP, the operation select of a command word (30_encoding.md R46). -/
def opOf (w : Word) : BitVec 2 := w.extractLsb' 0 2

/-- Bits [15:2] of a command word, ignored whatever their value (30_encoding.md R46). -/
def ignoredOf (w : Word) : BitVec 14 := w.extractLsb' 2 14

/-- The opcode map (30_encoding.md R47). -/
def decode (w : Word) : Instr :=
  if opOf w = 0b00#2 then .nop (ignoredOf w)
  else if opOf w = 0b01#2 then .pack (ignoredOf w)
  else if opOf w = 0b10#2 then .unpack (ignoredOf w)
  else .verify (ignoredOf w)

/-- The command word of an instruction, from the table of 30_encoding.md R46 and R47. -/
def encode : Instr → Word
  | .nop ignored => ignored ++ 0b00#2
  | .pack ignored => ignored ++ 0b01#2
  | .unpack ignored => ignored ++ 0b10#2
  | .verify ignored => ignored ++ 0b11#2

/-- The command word whose bits are the low `nbits` bits of `w` and zero above (R46: every command is one 16-bit word). -/
def tableWord (nbits w : Nat) : Word := BitVec.ofNat 16 (w % 2 ^ nbits)

/-- The instruction the decoder reads from a table row's bits. Every command is one 16-bit word (30_encoding.md R46), so
more than 16 bits are no command (log 15). -/
def decodeTableWord (nbits w : Nat) : Option Instr :=
  if nbits ≤ 16 then some (decode (tableWord nbits w)) else none

end Sys2Proof
end

