-- ==== Sys2Proof/Machine/AddressMap.lean ====
section
/-!
DEFINITION. The address map of the host register space (20_memory.md R30): which register each of the 256 addresses names,
and, for a program that writes a register's name, its address (30_encoding.md R59).
-/

namespace Sys2Proof.Machine

/-- The address of the first field register, F_CLKF; the ten follow one another in the order of R52 (20_memory.md R30). -/
def fieldBase : Nat := 0x10

/-- The place of a field's register among the ten (20_memory.md R30). -/
def fieldIndex : Field → Nat
  | .clkf => 0
  | .clkr => 1
  | .clkod => 2
  | .bwadj => 3
  | .chipX => 4
  | .chipY => 5
  | .delay => 6
  | .width => 7
  | .mask => 8
  | .debugMode => 9

/-- The ten fields in the order of 30_encoding.md R52. -/
def allFields : List Field :=
  [.clkf, .clkr, .clkod, .bwadj, .chipX, .chipY, .delay, .width, .mask, .debugMode]

/-- The register a numeric address names; an address the table of R30 gives no register is reserved (R33). -/
def regAtNat (n : Nat) : Reg :=
  if n = 0x00 then .cmd
  else if n = 0x01 then .status .tx
  else if n = 0x02 then .status .rx
  else if n = 0x03 then .status .vf
  else if n = 0x04 then .rxLen
  else if n = 0x05 then .expLen
  else if n = 0x06 then .rcvLen
  else if n < 0x08 then .reserved
  else if h : n < 0x10 then .ce ⟨n - 0x08, by omega⟩
  else if n < 0x1A then .field (allFields.getD (n - fieldBase) .debugMode)
  else if n < 0x20 then .reserved
  else if h : n < 0x2F then .txFrame ⟨n - 0x20, by omega⟩
  else if n < 0x30 then .reserved
  else if h : n < 0x43 then .rxBuf ⟨n - 0x30, by omega⟩
  else if n < 0x48 then .reserved
  else if n = 0x48 then .tL5
  else if n = 0x49 then .tL4
  else if n = 0x4A then .tL3
  else if h : n < 0x4F then .tL2Busy ⟨n - 0x4B, by omega⟩
  else if h : n < 0x53 then .tL2Done ⟨n - 0x4F, by omega⟩
  else if n < 0x80 then .reserved
  else if h : n < 0xC0 then .expBuf ⟨n - 0x80, by omega⟩
  else if h : n < 0x100 then .rcvBuf ⟨n - 0xC0, by omega⟩
  else .reserved

/-- The register an address names (20_memory.md R30). -/
def regAt (a : Addr) : Reg := regAtNat a.toNat

/-- The address of a register (20_memory.md R30); a reserved place has no name and so no address of its own. -/
def addrOf : Reg → Option Addr
  | .cmd => some 0x00#8
  | .status .tx => some 0x01#8
  | .status .rx => some 0x02#8
  | .status .vf => some 0x03#8
  | .rxLen => some 0x04#8
  | .expLen => some 0x05#8
  | .rcvLen => some 0x06#8
  | .ce k => some (BitVec.ofNat 8 (0x08 + k.val))
  | .field f => some (BitVec.ofNat 8 (fieldBase + fieldIndex f))
  | .txFrame k => some (BitVec.ofNat 8 (0x20 + k.val))
  | .rxBuf k => some (BitVec.ofNat 8 (0x30 + k.val))
  | .tL5 => some 0x48#8
  | .tL4 => some 0x49#8
  | .tL3 => some 0x4A#8
  | .tL2Busy w => some (BitVec.ofNat 8 (0x4B + w.val))
  | .tL2Done w => some (BitVec.ofNat 8 (0x4F + w.val))
  | .expBuf i => some (BitVec.ofNat 8 (0x80 + i.val))
  | .rcvBuf i => some (BitVec.ofNat 8 (0xC0 + i.val))
  | .reserved => none

end Sys2Proof.Machine
end

