-- ==== Sys2Proof/Config.lean ====
section
/-!
DEFINITION. The implementation parameters of 00_scope.md §4. Lengths that the spec fixes are plain numbers. VMAX is OPEN
(00_scope.md R5, 93_implementation_defined.md U5): it has no value here, only its bounds. FIELD_TABLE, the other
parameter, is `Sys2Proof.Config.fieldTable` in Sys2Proof/Machine/FieldTable.lean, where a corrected table can replace it.
-/

namespace Sys2Proof.Config

/-- By how much VMAX exceeds its lower bound 15. No value: an implementation fixes it (log 1). -/
opaque vmaxAbove : Fin 50

/-- VMAX, the capacity in bytes of each verifier buffer: any natural with 15 ≤ VMAX ≤ 64 (00_scope.md R5). -/
def vmax : Nat := 15 + vmaxAbove.val

/-- The frame bit at a stream position from 64 up that a replacement FIELD_TABLE gives to no field. No value: the spec states
none (log 17). The default table leaves no such position (30_encoding.md R54). -/
opaque unassignedBit : Nat → Bool

/-- CONFIG_FRAME_LEN (00_scope.md R3). -/
def configFrameLen : Nat := 15

/-- TELEM_FRAME_LEN, the length UNPACK asks for (00_scope.md R4). -/
def telemFrameLen : Nat := 19

/-- RX_CAP, the largest value RX_LEN holds (00_scope.md §4, 10_state.md R18). -/
def rxCap : Nat := 19

/-- The places the address map has for each verifier buffer, of which only VMAX exist (20_memory.md R30 and R34). -/
def bufferPlaces : Nat := 64

end Sys2Proof.Config
end

