-- ==== Sys2Proof/Machine/State.lean ====
section
/-!
DEFINITION. The state of the block: exactly the registers of 10_state.md R10, each under its own name, and beside them the
model's own host port. Plain data. Reset values are those of 70_reset_and_hazards.md R84.
-/

namespace Sys2Proof.Machine

/-- The ten field input registers, 16 bits each, never truncated to the field's width (10_state.md R22). -/
structure FieldRegs where
  clkf  : Word
  clkr  : Word
  clkod : Word
  bwadj : Word
  chipX : Word
  chipY : Word
  delay : Word
  width : Word
  mask  : Word
  debugMode : Word
  deriving DecidableEq, Repr

/-- One answer of the block to a host read: the word, and the name the host's line gave it (20_memory.md R32, R59). -/
structure Reply where
  name : Option Name
  word : Word
  deriving DecidableEq, Repr

/-- The host's side of the port, the model's own and no register of the block (log 3, log 5): the lines the host has still
to issue, the next one first, and the words it has read, the newest first. -/
structure Port where
  pending : List Line
  replies : List Reply
  deriving DecidableEq, Repr

/-- The complete state (10_state.md R10): TX_STATUS, RX_STATUS, VF_STATUS, RX_LEN, EXP_LEN, RCV_LEN, CE, F_*, TX_FRAME,
RX_BUF, T_L5, T_L4, T_L3, T_L2BUSY, T_L2DONE, EXP_BUF, RCV_BUF, and the model's own port. CMD stores nothing (R13) and so
has no field. Of the 64 places of EXP_BUF and RCV_BUF only the first VMAX exist (20_memory.md R34, log 8). -/
structure State where
  txStatus : BitVec 2
  rxStatus : BitVec 2
  vfStatus : BitVec 2
  rxLen    : BitVec 5
  expLen   : BitVec 7
  rcvLen   : BitVec 7
  ce       : Vector Byte 8
  fields   : FieldRegs
  txFrame  : Vector Byte 15
  rxBuf    : Vector Byte 19
  tL5      : BitVec 1
  tL4      : BitVec 4
  tL3      : BitVec 16
  tL2Busy  : BitVec 64
  tL2Done  : BitVec 64
  expBuf   : Vector Byte 64
  rcvBuf   : Vector Byte 64
  port     : Port
  deriving DecidableEq, Repr

/-- Why the machine stops. No rule of the spec has a trap (60_exceptions.md R74, R76, R78). -/
inductive Fault where
  /-- A host read of a status register that holds code 3, which no step writes (93_implementation_defined.md U9: a model
  that ever reads 3 "should fault rather than give the code a meaning"). Raised by the read transaction only. Safe: no
  state reached from reset holds code 3, and there the machine stops where the spec gives no meaning. -/
  | reservedStatusCode (c : Channel)
  deriving DecidableEq, Repr

/-- Why a step has no meaning. -/
inductive Refusal where
  /-- An instruction with no meaning in this model yet. Raised by no arm. Safe. -/
  | notModelled (mnemonic : String)
  /-- The host's line sends a value by a name that no earlier read gave (30_encoding.md R59 names a value only by reading
  it), so there is no data word to send. Raised by a write line only, before anything reaches the block. Safe. -/
  | unboundName (n : Name)
  deriving DecidableEq, Repr

/-- The field registers at reset: all 0x0000 (70_reset_and_hazards.md R84). -/
def FieldRegs.reset : FieldRegs where
  clkf  := 0x0000#16
  clkr  := 0x0000#16
  clkod := 0x0000#16
  bwadj := 0x0000#16
  chipX := 0x0000#16
  chipY := 0x0000#16
  delay := 0x0000#16
  width := 0x0000#16
  mask  := 0x0000#16
  debugMode := 0x0000#16

/-- The port of a host that has issued nothing and has nothing to issue (DESIGN CHOICE, log 11). -/
def Port.idle : Port where
  pending := []
  replies := []

/-- The state after RESET, which is also the state at power-on: every register zero, every status EMPTY
(70_reset_and_hazards.md R84). -/
def State.reset : State where
  txStatus := 0#2
  rxStatus := 0#2
  vfStatus := 0#2
  rxLen    := 0#5
  expLen   := 0#7
  rcvLen   := 0#7
  ce       := Vector.replicate 8 0x00#8
  fields   := FieldRegs.reset
  txFrame  := Vector.replicate 15 0x00#8
  rxBuf    := Vector.replicate 19 0x00#8
  tL5      := 0#1
  tL4      := 0#4
  tL3      := 0#16
  tL2Busy  := 0#64
  tL2Done  := 0#64
  expBuf   := Vector.replicate 64 0x00#8
  rcvBuf   := Vector.replicate 64 0x00#8
  port     := Port.idle

end Sys2Proof.Machine
end

