-- ==== Sys2Proof/Machine/Flags.lean ====
section
/-!
DEFINITION. The block's only flags: one 2-bit status code per channel (10_state.md R14 to R17).
-/

namespace Sys2Proof.Machine

/-- EMPTY: no operation of the channel since reset (10_state.md R14 to R16). -/
def codeEmpty : BitVec 2 := 0#2

/-- Success: VALID in TX_STATUS and RX_STATUS, MATCH in VF_STATUS (10_state.md R14 to R16). -/
def codeOk : BitVec 2 := 1#2

/-- OUT_OF_RANGE in TX_STATUS, SHORT_BUFFER in RX_STATUS, MISMATCH in VF_STATUS (10_state.md R14 to R16). -/
def codeError : BitVec 2 := 2#2

/-- The code no step writes (10_state.md R14 to R16, 30_encoding.md R58 (3)). -/
def codeReserved : BitVec 2 := 3#2

/-- The status register of a channel. -/
def statusOf (c : Channel) (s : State) : BitVec 2 :=
  match c with
  | .tx => s.txStatus
  | .rx => s.rxStatus
  | .vf => s.vfStatus

/-- Writing the status register of a channel, and nothing else (10_state.md R17). -/
def setStatus (c : Channel) (code : BitVec 2) (s : State) : State :=
  match c with
  | .tx => { s with txStatus := code }
  | .rx => { s with rxStatus := code }
  | .vf => { s with vfStatus := code }

end Sys2Proof.Machine
end

