-- ==== Sys2Proof/Machine/FieldTable.lean ====
section
/-!
DEFINITION. FIELD_TABLE, the placement of the ten bit fields in the configuration frame (30_encoding.md R52). PACK is written
over a table, so that a corrected one changes no meaning (92_eei_decisions.md D8); the table in use is `Config.fieldTable`.
-/

namespace Sys2Proof

/-- One row of FIELD_TABLE: a field, its width in bits and the stream offset of its most significant bit (R50, R52). -/
structure FieldRow where
  field  : Field
  width  : Nat
  offset : Nat
  deriving DecidableEq, Repr

/-- A placement table: one row per field. -/
abbrev FieldTable := List FieldRow

/-- The row holds stream bit `j` (00_scope.md R8: a field at offset o with width w occupies S[o..o+w-1]). -/
def FieldRow.covers (r : FieldRow) (j : Nat) : Bool := decide (r.offset ≤ j) && decide (j < r.offset + r.width)

/-- Two rows share no stream bit. -/
def FieldRow.disjoint (r q : FieldRow) : Bool :=
  decide (r.offset + r.width ≤ q.offset) || decide (q.offset + q.width ≤ r.offset)

/-- A table a replacement may be: each field once, no two rows overlapping, every row inside stream bits 64..119, and
`pll_clkr` where 30_encoding.md R51 has it (93_implementation_defined.md U4). -/
def FieldTable.legal (T : FieldTable) : Prop :=
  (∀ f : Field, ∃ r ∈ T, r.field = f) ∧
  T.Pairwise (fun r q => r.field ≠ q.field ∧ r.disjoint q = true) ∧
  (∀ r ∈ T, 64 ≤ r.offset ∧ r.offset + r.width ≤ 8 * Config.configFrameLen) ∧
  (⟨.clkr, 4, 70⟩ : FieldRow) ∈ T

namespace Config

/-- The default FIELD_TABLE: contiguous MSB-first packing from stream offset 64 (30_encoding.md R52; log 2). -/
def fieldTable : FieldTable :=
  [⟨.clkf, 6, 64⟩,
   ⟨.clkr, 4, 70⟩,
   ⟨.clkod, 4, 74⟩,
   ⟨.bwadj, 8, 78⟩,
   ⟨.chipX, 5, 86⟩,
   ⟨.chipY, 5, 91⟩,
   ⟨.delay, 10, 96⟩,
   ⟨.width, 5, 106⟩,
   ⟨.mask, 8, 111⟩,
   ⟨.debugMode, 1, 119⟩]

end Config

end Sys2Proof
end

