-- ==== Sys2Proof/Machine/Operands.lean ====
section
/-!
DEFINITION. The operands of the operations, all of them fixed registers (10_state.md R11), and the bit streams of the two
frames (00_scope.md R8). Frame bytes are counted from 1 in the spec and from 0 here: byte k of the spec is index k - 1.
-/

namespace Sys2Proof.Machine

/-- Byte `i`, counted from 0, of a buffer register; 0x00 where the buffer has no such byte (log 10). -/
def byteAt {n : Nat} (b : Vector Byte n) (i : Nat) : Byte := b[i]?.getD 0x00#8

/-- Bit `j` of a frame's stream: `S[j] = F[(j div 8) + 1][7 - (j mod 8)]` (00_scope.md R8). -/
def streamBit {n : Nat} (frame : Vector Byte n) (j : Nat) : Bool := (byteAt frame (j / 8)).getLsbD (7 - j % 8)

/-- Byte `k`, counted from 0, of a stream: `S[8k] ++ S[8k+1] ++ ... ++ S[8k+7]` (40_frame_codec.md R61). -/
def byteOfStream (S : Nat → Bool) (k : Nat) : Byte :=
  BitVec.ofBoolListBE
    [S (8 * k), S (8 * k + 1), S (8 * k + 2), S (8 * k + 3), S (8 * k + 4), S (8 * k + 5), S (8 * k + 6), S (8 * k + 7)]

/-- The input register F_f of a field (10_state.md R22). -/
def FieldRegs.get (r : FieldRegs) : Field → Word
  | .clkf => r.clkf
  | .clkr => r.clkr
  | .clkod => r.clkod
  | .bwadj => r.bwadj
  | .chipX => r.chipX
  | .chipY => r.chipY
  | .delay => r.delay
  | .width => r.width
  | .mask => r.mask
  | .debugMode => r.debugMode

/-- Writing the input register F_f of a field, all 16 bits (10_state.md R22). -/
def FieldRegs.set (r : FieldRegs) (f : Field) (v : Word) : FieldRegs :=
  match f with
  | .clkf => { r with clkf := v }
  | .clkr => { r with clkr := v }
  | .clkod => { r with clkod := v }
  | .bwadj => { r with bwadj := v }
  | .chipX => { r with chipX := v }
  | .chipY => { r with chipY := v }
  | .delay => { r with delay := v }
  | .width => { r with width := v }
  | .mask => { r with mask := v }
  | .debugMode => { r with debugMode := v }

/-- `InRange(v, w)`: v < 2^w, with v the 16-bit unsigned value (40_frame_codec.md R62). -/
def inRange (v : Word) (w : Nat) : Bool := decide (v.toNat < 2 ^ w)

/-- Every field register passes its range check (40_frame_codec.md R61; the order of the checks does not matter, R77). -/
def allInRange (T : FieldTable) (s : State) : Bool := T.all (fun r => inRange (s.fields.get r.field) r.width)

/-- Bit `j` of the configuration frame's stream as PACK builds it (40_frame_codec.md R61): bits 0..63 are the clock-enable
bytes (30_encoding.md R49), and bit o + i of a field at offset o with width w is value bit w - 1 - i (R50). A position that no
row covers, which the default table does not have (R54), holds a free value (log 17); of two rows that cover one position,
which no legal table has, the first counts (log 2). -/
def configBit (T : FieldTable) (s : State) (j : Nat) : Bool :=
  if j < 64 then (byteAt s.ce (j / 8)).getLsbD (7 - j % 8)
  else match T.find? (fun r => r.covers j) with
    | some r => (s.fields.get r.field).getLsbD (r.width - 1 - (j - r.offset))
    | none => Config.unassignedBit j

/-- The 15 bytes of the configuration frame (40_frame_codec.md R61). -/
def configFrame (T : FieldTable) (s : State) : Vector Byte 15 :=
  Vector.ofFn (fun k : Fin 15 => byteOfStream (configBit T s) k.val)

/-- The telemetry record UNPACK makes (40_frame_codec.md R65), one field per output register. -/
structure Telemetry where
  l5     : BitVec 1
  l4     : BitVec 4
  l3     : BitVec 16
  l2Busy : BitVec 64
  l2Done : BitVec 64
  deriving DecidableEq, Repr

/-- `RX_BUF[1][7]`, `RX_BUF[1][6:3]` and the three byte groups, MSB-first (40_frame_codec.md R65). RX_BUF[1][2:0] is
reserved and ignored (R67). -/
def telemetryOf (b : Vector Byte 19) : Telemetry where
  l5 := b[0].extractLsb' 7 1
  l4 := b[0].extractLsb' 3 4
  l3 := b[1] ++ b[2]
  l2Busy := b[3] ++ b[4] ++ b[5] ++ b[6] ++ b[7] ++ b[8] ++ b[9] ++ b[10]
  l2Done := b[11] ++ b[12] ++ b[13] ++ b[14] ++ b[15] ++ b[16] ++ b[17] ++ b[18]

/-- The first `n` bytes of the two verifier buffers are the same (41_echo_verifier.md R69, R71). -/
def sameBytes (e r : Vector Byte 64) (n : Nat) : Bool := (List.range n).all (fun i => byteAt e i == byteAt r i)

/-- Verify's verdict: equal lengths first, then byte for byte (41_echo_verifier.md R69, R70). -/
def echoMatches (s : State) : Bool :=
  decide (s.expLen = s.rcvLen) && sameBytes s.expBuf s.rcvBuf s.expLen.toNat

end Sys2Proof.Machine
end

