-- ==== Sys2Proof/Machine/Ops.lean ====
section
/-!
DEFINITION. The named operations over the registers: what a write stores, what a read returns, reporting an error, loading
the outputs of an operation, and the reset event. Every register is read and written here and nowhere else.
-/

namespace Sys2Proof.Machine

/-- `raise E` (60_exceptions.md R74): the operation ends with its own channel's status at the error's code and nothing else
changed. No state is saved, no mode changes and no control is transferred; there is no return (R78). -/
def raiseError (c : Channel) (s : State) : State := setStatus c codeError s

/-- Loading TX_FRAME, all fifteen bytes together (10_state.md R23). -/
def loadFrame (frame : Vector Byte 15) (s : State) : State := { s with txFrame := frame }

/-- Loading the five telemetry registers together (10_state.md R25 to R27). -/
def loadTelemetry (t : Telemetry) (s : State) : State :=
  { s with tL5 := t.l5, tL4 := t.l4, tL3 := t.l3, tL2Busy := t.l2Busy, tL2Done := t.l2Done }

/-- The value a length register of `w` bits and range 0..cap stores for d: min(d, cap) (20_memory.md R36). -/
def clampLen (w cap : Nat) (d : Word) : BitVec w := BitVec.ofNat w (min d.toNat cap)

/-- d[7:0], what a register of 8 bits keeps of a write (20_memory.md R35). -/
def lowByte (d : Word) : Byte := d.setWidth 8

/-- A buffer place that the configured capacity has (20_memory.md R34; places counted from 0). -/
def placeExists (i : Fin 64) : Bool := decide (i.val < Config.vmax)

/-- A host write of d to a register other than CMD (20_memory.md R31). Writes to read-only registers, to reserved addresses
and to buffer places beyond VMAX change nothing (R31, R33, R34). CMD itself stores nothing (10_state.md R13); the operation
it performs is in Machine/HostPort.lean. -/
def writeReg (r : Reg) (d : Word) (s : State) : State :=
  match r with
  | .cmd => s
  | .status _ => s
  | .rxLen => { s with rxLen := clampLen 5 Config.rxCap d }
  | .expLen => { s with expLen := clampLen 7 Config.vmax d }
  | .rcvLen => { s with rcvLen := clampLen 7 Config.vmax d }
  | .ce k => { s with ce := s.ce.set k.val (lowByte d) k.isLt }
  | .field f => { s with fields := s.fields.set f d }
  | .txFrame _ => s
  | .rxBuf k => { s with rxBuf := s.rxBuf.set k.val (lowByte d) k.isLt }
  | .tL5 => s
  | .tL4 => s
  | .tL3 => s
  | .tL2Busy _ => s
  | .tL2Done _ => s
  | .expBuf i => if placeExists i then { s with expBuf := s.expBuf.set i.val (lowByte d) i.isLt } else s
  | .rcvBuf i => if placeExists i then { s with rcvBuf := s.rcvBuf.set i.val (lowByte d) i.isLt } else s
  | .reserved => s

/-- Word w of a 64-bit telemetry register: r[63-16w : 48-16w] (20_memory.md R40). -/
def l2Word (r : BitVec 64) (w : Fin 4) : Word := r.extractLsb' (48 - 16 * w.val) 16

/-- The word a host read of a register returns: its stored bits, zero-extended to 16 bits; 0x0000 for CMD, for a reserved
address and for a buffer place beyond VMAX (20_memory.md R32). -/
def readReg (r : Reg) (s : State) : Word :=
  match r with
  | .cmd => 0x0000#16
  | .status c => (statusOf c s).setWidth 16
  | .rxLen => s.rxLen.setWidth 16
  | .expLen => s.expLen.setWidth 16
  | .rcvLen => s.rcvLen.setWidth 16
  | .ce k => (s.ce[k.val]).setWidth 16
  | .field f => s.fields.get f
  | .txFrame k => (s.txFrame[k.val]).setWidth 16
  | .rxBuf k => (s.rxBuf[k.val]).setWidth 16
  | .tL5 => s.tL5.setWidth 16
  | .tL4 => s.tL4.setWidth 16
  | .tL3 => s.tL3
  | .tL2Busy w => l2Word s.tL2Busy w
  | .tL2Done w => l2Word s.tL2Done w
  | .expBuf i => if placeExists i then (s.expBuf[i.val]).setWidth 16 else 0x0000#16
  | .rcvBuf i => if placeExists i then (s.rcvBuf[i.val]).setWidth 16 else 0x0000#16
  | .reserved => 0x0000#16

/-- The RESET event: every register to its reset value (70_reset_and_hazards.md R84). The host's port is outside the block
and stays (log 11). -/
def resetRegisters (s : State) : State := { State.reset with port := s.port }

/-- The block's answer to a read, handed to the host under the name its line gives, if any (log 5). No register changes. -/
def answer (bind : Option Name) (w : Word) (s : State) : State :=
  { s with port := { s.port with replies := ⟨bind, w⟩ :: s.port.replies } }

/-- The host has issued its first pending line (log 3). -/
def withPending (rest : List Line) (s : State) : State := { s with port := { s.port with pending := rest } }

/-- The value a name stands for: the word of the newest read that was given that name (30_encoding.md R59). -/
def lookupName (n : Name) : List Reply → Option Word
  | [] => none
  | r :: rest => if r.name = some n then some r.word else lookupName n rest

end Sys2Proof.Machine
end

