-- ==== Sys2Proof/Machine/Codec.lean ====
section
/-!
DEFINITION. The frame codec operations, PACK and UNPACK (40_frame_codec.md).
-/

namespace Sys2Proof.Machine

/-- PACK over a placement table (40_frame_codec.md R61, all-or-nothing by R63): `FieldOutOfRange` if any field fails its
range check (R62), else the whole frame and VALID. -/
def packWith (T : FieldTable) (s : State) : State :=
  if allInRange T s then setStatus .tx codeOk (loadFrame (configFrame T s) s) else raiseError .tx s

/-- PACK with the configured FIELD_TABLE (40_frame_codec.md R61). -/
def execPack (s : State) : Host.Outcome State Fault Refusal := .next (packWith Config.fieldTable s)

/-- UNPACK (40_frame_codec.md R65): `ShortBuffer` if RX_LEN < 19 (R66), else the five telemetry registers and VALID. -/
def execUnpack (s : State) : Host.Outcome State Fault Refusal :=
  .next (if s.rxLen.toNat < Config.telemFrameLen then raiseError .rx s
    else setStatus .rx codeOk (loadTelemetry (telemetryOf s.rxBuf) s))

end Sys2Proof.Machine
end

