-- ==== Sys2Proof/Machine/Control.lean ====
section
/-!
DEFINITION. The control operation, NOP (42_control.md).
-/

namespace Sys2Proof.Machine

/-- NOP: no register is read or written (42_control.md R73). -/
def execNop (s : State) : Host.Outcome State Fault Refusal := .next s

end Sys2Proof.Machine
end

