-- ==== Sys2Proof/Machine/Verifier.lean ====
section
/-!
DEFINITION. The echo verifier operation, VERIFY (41_echo_verifier.md).
-/

namespace Sys2Proof.Machine

/-- VERIFY (41_echo_verifier.md R69): MATCH or MISMATCH in VF_STATUS, always one of the two. A mismatch is a result, not an
error (60_exceptions.md R75). -/
def execVerify (s : State) : Host.Outcome State Fault Refusal :=
  .next (setStatus .vf (if echoMatches s then codeOk else codeError) s)

end Sys2Proof.Machine
end

