-- ==== Sys2Proof/Machine/Dispatch.lean ====
section
/-!
DEFINITION. One arm per operation (30_encoding.md R47). The ignored bits of the command word reach no meaning (R46).
-/

namespace Sys2Proof.Machine

def exec (i : Instr) (s : State) : Host.Outcome State Fault Refusal :=
  match i with
  | .nop _ => Sys2Proof.Machine.execNop s
  | .pack _ => Sys2Proof.Machine.execPack s
  | .unpack _ => Sys2Proof.Machine.execUnpack s
  | .verify _ => Sys2Proof.Machine.execVerify s

end Sys2Proof.Machine
end

