-- ==== Sys2Proof/Machine/HostPort.lean ====
section
/-!
DEFINITION. The host's three transactions (20_memory.md R31 and R32, 70_reset_and_hazards.md R84). Each is one atomic step
(10_state.md R9).
-/

namespace Sys2Proof.Machine

/-- `HostRead(a)`: the word read; no state is involved but the register's (20_memory.md R32). -/
def hostRead (a : Addr) (s : State) : Word := readReg (regAt a) s

/-- The status register at this address holds code 3, which has no meaning (93_implementation_defined.md U9; log 7). -/
def reservedCodeAt (a : Addr) (s : State) : Option Channel :=
  match regAt a with
  | .status c => if statusOf c s = codeReserved then some c else none
  | _ => none

/-- `HostWrite(a, d)` (20_memory.md R31): at CMD the operation the word selects, in the same step (10_state.md R13);
elsewhere the register's write. -/
def hostWrite (a : Addr) (d : Word) (s : State) : Host.Outcome State Fault Refusal :=
  match regAt a with
  | .cmd => exec (decode d) s
  | r => .next (writeReg r d s)

/-- One transaction of the host. `bind` is the name a read's answer is given. -/
def transact (bind : Option Name) (t : Transaction) (s : State) : Host.Outcome State Fault Refusal :=
  match t with
  | .write a d => hostWrite a d s
  | .read a =>
    match reservedCodeAt a s with
    | some c => .fault (.reservedStatusCode c)
    | none => .next (answer bind (hostRead a s) s)
  | .reset => .next (resetRegisters s)

end Sys2Proof.Machine
end

