-- ==== Sys2Proof/Machine/Transact.lean ====
section
/-!
DEFINITION. How the host's next line becomes a transaction, and what one step of the machine is (10_state.md R9).
-/

namespace Sys2Proof.Machine

/-- The data word of a write line (30_encoding.md R59): the number, or the newest value read under that name. A name that no
read gave has no value to send and is refused (log 6). -/
def datumWord (d : Datum) (s : State) : Except Refusal Word :=
  match d with
  | .lit w => .ok w
  | .named n =>
    match lookupName n s.port.replies with
    | some w => .ok w
    | none => .error (.unboundName n)

/-- One line of the host's program as its transaction (30_encoding.md R59). -/
def runLine (l : Line) (s : State) : Host.Outcome State Fault Refusal :=
  match l with
  | .write a d =>
    match datumWord d s with
    | .ok w => transact none (.write a w) s
    | .error r => .refused r
  | .read a bind => transact bind (.read a) s
  | .reset => transact none .reset s

/-- One step: the host's next line is issued and takes its whole effect; with nothing pending the block stays as it is, since
the operation unit never steps on its own (10_state.md R9; log 3, log 4). -/
def nextLine (s : State) : Host.Outcome State Fault Refusal :=
  match s.port.pending with
  | [] => .next s
  | l :: rest => runLine l (withPending rest s)

end Sys2Proof.Machine
end

