-- ==== Sys2Proof/Machine/Step.lean ====
section
/-!
DEFINITION. One step of the machine, and where it takes its next instruction from. The block fetches nothing (10_state.md
R12): an operation arrives as a host write to CMD, the first line of the pending list (log 3).
-/

namespace Sys2Proof.Machine

/-- One atomic step (10_state.md R9). -/
def step (s : State) : Host.Outcome State Fault Refusal := nextLine s

/-- The state in which the host's next transaction is a write of this command word to CMD. Nothing else changes. -/
def State.withFetchWord (s : State) (nbits w : Nat) : State :=
  { s with port := { s.port with pending := .write 0x00#8 (.lit (tableWord nbits w)) :: s.port.pending } }

end Sys2Proof.Machine
end

