-- ==== Sys2Proof/Machine/Clusters.lean ====
section
/-!
DEFINITION. The cluster names of the bitmaps (10_state.md R21, R25 to R27; 30_encoding.md R57). The configuration side
counts L2 clusters from 0, the telemetry side counts every tier from 1. No operation reads these; they name bits.
-/

namespace Sys2Proof.Machine

/-- The clock of config-side L2 cluster c (0..63) is enabled: bit 7 - (c mod 8) of CE[(c div 8) + 1] (10_state.md R21). -/
def clusterEnabled (s : State) (c : Nat) : Bool := (byteAt s.ce (c / 8)).getLsbD (7 - c % 8)

/-- L4 cluster n (1..4) is busy: T_L4[4-n] (40_frame_codec.md R65). -/
def l4ClusterBusy (s : State) (n : Nat) : Bool := s.tL4.getLsbD (4 - n)

/-- L3 cluster n (1..16) is busy: T_L3[16-n] (40_frame_codec.md R65). -/
def l3ClusterBusy (s : State) (n : Nat) : Bool := s.tL3.getLsbD (16 - n)

/-- L2 cluster n (1..64) is busy: T_L2BUSY[64-n] (40_frame_codec.md R65). -/
def l2ClusterBusy (s : State) (n : Nat) : Bool := s.tL2Busy.getLsbD (64 - n)

/-- L2 cluster n (1..64) is done: T_L2DONE[64-n] (40_frame_codec.md R65). -/
def l2ClusterDone (s : State) (n : Nat) : Bool := s.tL2Done.getLsbD (64 - n)

/-- The config-side number of telemetry L2 cluster n: the same physical cluster, c = n - 1 (30_encoding.md R57). -/
def configCluster (n : Nat) : Nat := n - 1

end Sys2Proof.Machine
end

