-- ==== Sys2Proof/WellFormed.lean ====
section
/-!
DEFINITION. Which terms of Syntax.lean are programs of this block. Every instruction is well formed (30_encoding.md R47:
no command word is illegal). A source line is well formed when its pseudo-instruction is within the bounds R60 gives it,
and a program when every name it sends was read before (R59).
-/

namespace Sys2Proof

/-- Every instruction is well formed: all 65,536 command words are legal (30_encoding.md R47, R58). -/
def Instr.wellFormed : Instr → Bool
  | .nop _ => true
  | .pack _ => true
  | .unpack _ => true
  | .verify _ => true

/-- The bounds of 30_encoding.md R60: k = 1..8 in `SETCE`, n ≤ 19 in `LOADRX`, n ≤ VMAX in `LOADEXP` and `LOADRCV`. -/
def Source.wellFormed : Source → Bool
  | .line _ => true
  | .nop => true
  | .pack => true
  | .unpack => true
  | .verify => true
  | .setCe k _ => decide (1 ≤ k) && decide (k ≤ 8)
  | .setField _ _ => true
  | .loadRx bs => decide (bs.length ≤ Config.rxCap)
  | .loadExp bs => decide (bs.length ≤ Config.vmax)
  | .loadRcv bs => decide (bs.length ≤ Config.vmax)
  | .copyTx => true

/-- A data operand names only a value of `bound`. -/
def Datum.boundIn (bound : List Name) : Datum → Bool
  | .lit _ => true
  | .named n => bound.contains n

/-- A list of lines sends no name that neither `bound` holds nor an earlier line of the list reads (30_encoding.md R59:
a read "may write `RD <addr> -> <name>` to name the value"). -/
def wellScoped : List Name → List Line → Bool
  | _, [] => true
  | bound, .write _ d :: rest => d.boundIn bound && wellScoped bound rest
  | bound, .read _ (some n) :: rest => wellScoped (n :: bound) rest
  | bound, .read _ none :: rest => wellScoped bound rest
  | bound, .reset :: rest => wellScoped bound rest

end Sys2Proof
end

