-- ==== Sys2Proof/Machine/Source.lean ====
section
/-!
DEFINITION. The lines a source line stands for (30_encoding.md R59 and R60). The expansions are exact: a pseudo-instruction
has no effect beyond its expansion, so it has no meaning of its own.
-/

namespace Sys2Proof.Machine

/-- A decimal digit's character. -/
def digitChar (d : Nat) : Char := Char.ofNat (48 + d)

/-- `t_k`, the name `COPYTX` gives to TX_FRAME[k], k = 1..15 (30_encoding.md R60). -/
def copyName (k : Nat) : Name :=
  if k < 10 then ['t', '_', digitChar k] else ['t', '_', digitChar (k / 10), digitChar (k % 10)]

/-- `WR addr, data` with the address as a number. -/
def wr (a : Nat) (d : Datum) : Line := .write (BitVec.ofNat 8 a) d

/-- `WR` with a number as data. -/
def wrLit (a d : Nat) : Line := wr a (.lit (BitVec.ofNat 16 d))

/-- The bytes of a list to consecutive addresses, the first at `base` (30_encoding.md R60). -/
def loadLines (base : Nat) : List Datum → List Line
  | [] => []
  | b :: bs => wr base b :: loadLines (base + 1) bs

/-- For k = 1..15: `RD 0x1F+k -> t_k`, `WR 0x7F+k, t_k` (30_encoding.md R60 `COPYTX`), from the k-th on, `n` of them. -/
def copyLines (k : Nat) : Nat → List Line
  | 0 => []
  | n + 1 => .read (BitVec.ofNat 8 (0x1F + k)) (some (copyName k)) :: wr (0x7F + k) (.named (copyName k)) :: copyLines (k + 1) n

/-- The expansion of a source line (30_encoding.md R59 for the mnemonics, R60 for the pseudo-instructions). -/
def expand : Source → List Line
  | .line l => [l]
  | .nop => [wrLit 0x00 0x0000]
  | .pack => [wrLit 0x00 0x0001]
  | .unpack => [wrLit 0x00 0x0002]
  | .verify => [wrLit 0x00 0x0003]
  | .setCe k b => [wr (0x07 + k) b]
  | .setField f v => [wr (fieldBase + fieldIndex f) v]
  | .loadRx bs => loadLines 0x30 bs ++ [wrLit 0x04 bs.length]
  | .loadExp bs => loadLines 0x80 bs ++ [wrLit 0x05 bs.length]
  | .loadRcv bs => loadLines 0xC0 bs ++ [wrLit 0x06 bs.length]
  | .copyTx => copyLines 1 15 ++ [wrLit 0x05 15]

/-- The lines of a program (30_encoding.md R59: a program is a sequence of host transactions). -/
def expandAll (p : List Source) : List Line := p.flatMap expand

end Sys2Proof.Machine
end

