-- ==== Sys2Proof/Machine/Session.lean ====
section
/-!
DEFINITION. The host's session with the block, an environment (60_exceptions.md §6, R80 to R82; log 12): its transactions
as source lines, and the verdict it draws from the words it read. Transport, actors and pacing are no part of it.
-/

namespace Sys2Proof.Machine

/-- Lines issued one after another, each one step of the block, stopping at the first fault or refusal. -/
def runLines : List Line → State → Host.Outcome State Fault Refusal
  | [], s => .next s
  | l :: rest, s =>
    match runLine l s with
    | .next t => runLines rest t
    | .fault r => .fault r
    | .refused r => .refused r

/-- A received byte as the data operand that loads it. -/
def byteDatum (b : Byte) : Datum := .lit (b.setWidth 16)

/-- The start of a session: pack the configuration once (60_exceptions.md R80 (1)) and read TX_STATUS, which a host must do
before it uses TX_FRAME (70_reset_and_hazards.md R89). -/
def sessionStart : List Source := [.pack, .line (.read 0x01#8 none)]

/-- The word the host read last is VALID: the PACK of the session was successful (10_state.md R14). -/
def packSucceeded (s : State) : Bool := s.port.replies.head?.any (fun r => r.word == 0x0001#16)

/-- One round: load RCV with the bytes the transport returned and their count, VERIFY, read VF_STATUS (60_exceptions.md R80
(2)). A short or failed read is simply fewer bytes, perhaps none (R82). -/
def roundSource (received : List Byte) : List Source :=
  [.loadRcv (received.map byteDatum), .verify, .line (.read 0x03#8 none)]

/-- The rest of a session, after a successful PACK: the command frame becomes the expected operand (60_exceptions.md R81), and
every round runs, whatever the results (R80). -/
def sessionRounds (rounds : List (List Byte)) : List Source := .copyTx :: rounds.flatMap roundSource

/-- The host's mismatch counter after `n` rounds: how many of the last `n` words read were MISMATCH (60_exceptions.md R80 (2)). -/
def mismatchTally (n : Nat) (s : State) : Nat := (s.port.replies.take n).countP (fun r => r.word == 0x0002#16)

/-- The outcome of a session (60_exceptions.md R80 (3)). -/
inductive SessionOutcome where
  | success | failure
  deriving DecidableEq, Repr

/-- `Success` iff the mismatch counter is 0, else `Failure` (60_exceptions.md R80 (3)). -/
def sessionOutcome (n : Nat) (s : State) : SessionOutcome := if mismatchTally n s = 0 then .success else .failure

/-- A whole session (60_exceptions.md R80, R81). The frame is loaded and the rounds run only after a successful PACK; a failed
one is "surfaced before any I/O" (40_frame_codec.md R63), so no round runs and there is no outcome (log 12). -/
def runSession (rounds : List (List Byte)) (s : State) : Host.Outcome (State × Option SessionOutcome) Fault Refusal :=
  match runLines (expandAll sessionStart) s with
  | .fault r => .fault r
  | .refused r => .refused r
  | .next t =>
    if packSucceeded t then
      match runLines (expandAll (sessionRounds rounds)) t with
      | .fault r => .fault r
      | .refused r => .refused r
      | .next u => .next (u, some (sessionOutcome rounds.length u))
    else .next (t, none)

end Sys2Proof.Machine
end

