-- ==== Sys2Proof/Safety.lean ====
section
/-!
DEFINITION. What a safe run of the block is, in the terms the statements use: the bounds the register table gives
(10_state.md R10), the meaning of an EMPTY status (R14, R15), and a host that sends no value it has not read.
-/

namespace Sys2Proof.Machine

/-- What 10_state.md says every register holds: no status is 3 (R14 to R16), the lengths stay in range (R18 to R20), and
nothing is stored beyond VMAX (R28, 20_memory.md R34). -/
structure State.InBounds (s : State) : Prop where
  txCode : s.txStatus ≠ codeReserved
  rxCode : s.rxStatus ≠ codeReserved
  vfCode : s.vfStatus ≠ codeReserved
  rxLen  : s.rxLen.toNat ≤ Config.rxCap
  expLen : s.expLen.toNat ≤ Config.vmax
  rcvLen : s.rcvLen.toNat ≤ Config.vmax
  expEnd : ∀ i : Fin 64, Config.vmax ≤ i.val → s.expBuf[i.val] = 0x00#8
  rcvEnd : ∀ i : Fin 64, Config.vmax ≤ i.val → s.rcvBuf[i.val] = 0x00#8

/-- TX_STATUS = EMPTY says that no PACK ran since reset, and only a successful PACK writes TX_FRAME (10_state.md R14, R23);
likewise RX_STATUS and the telemetry registers (R15, R25 to R27). So under EMPTY they hold their reset values. -/
structure State.EmptyMeansReset (s : State) : Prop where
  tx : s.txStatus = codeEmpty → s.txFrame = Vector.replicate 15 0x00#8
  rx : s.rxStatus = codeEmpty → s.tL5 = 0 ∧ s.tL4 = 0 ∧ s.tL3 = 0 ∧ s.tL2Busy = 0 ∧ s.tL2Done = 0

/-- The bound of every field register (40_frame_codec.md R62), written out: F_CLKF ≤ 63 to F_DEBUG ≤ 1. -/
structure FieldRegs.Fit (r : FieldRegs) : Prop where
  clkf  : r.clkf.toNat ≤ 63
  clkr  : r.clkr.toNat ≤ 15
  clkod : r.clkod.toNat ≤ 15
  bwadj : r.bwadj.toNat ≤ 255
  chipX : r.chipX.toNat ≤ 31
  chipY : r.chipY.toNat ≤ 31
  delay : r.delay.toNat ≤ 1023
  width : r.width.toNat ≤ 31
  mask  : r.mask.toNat ≤ 255
  debugMode : r.debugMode.toNat ≤ 1

/-- The names the host has values for. -/
def boundNames : List Reply → List Name
  | [] => []
  | r :: rest =>
    match r.name with
    | some n => n :: boundNames rest
    | none => boundNames rest

/-- The host's pending lines send only values that it has read or will have read by then (30_encoding.md R59). -/
def State.HostScoped (s : State) : Prop := wellScoped (boundNames s.port.replies) s.port.pending = true

/-- A safe state: every register in bounds and the host's program well scoped. From one no step faults or is refused. -/
structure State.Safe (s : State) : Prop where
  bounds : s.InBounds
  hostOk : s.HostScoped

end Sys2Proof.Machine
end

