-- ==== Sys2Proof/Certificates/Slice0/Obligations.lean ====
section
/-!
DEFINITION. The statements for the provers. Each docstring says which rule of the spec its statement is about. "Every register
reads as before" is said through `hostRead`, the block's own read of one address (20_memory.md R32).
-/

open Sys2Proof Sys2Proof.Machine

/-! ## Encoding and stepping -/

/-- Decoding an encoded operation gives it back, and encoding a decoded word gives back the word (30_encoding.md R46, R47). That
an instruction carries bits [15:2], so that they survive both ways, is the model's choice (log 9): R46 only calls them ignored. -/
def Obligations.CommandWordRoundTrip : Prop :=
  (∀ i : Instr, i.wellFormed = true → decode (encode i) = i) ∧ (∀ w : Word, encode (decode w) = w)

/-- 30_encoding.md R47: the opcode map, total over all command words. That the instruction carries bits [15:2] is the model's
choice (log 9), and so is how `decodeTableWord` takes the bits (log 15). -/
def Obligations.EveryWordSelectsOneOperation : Prop :=
  ∀ w : Word,
    (w.extractLsb' 0 2 = 0b00#2 → decode w = .nop (w.extractLsb' 2 14)) ∧
    (w.extractLsb' 0 2 = 0b01#2 → decode w = .pack (w.extractLsb' 2 14)) ∧
    (w.extractLsb' 0 2 = 0b10#2 → decode w = .unpack (w.extractLsb' 2 14)) ∧
    (w.extractLsb' 0 2 = 0b11#2 → decode w = .verify (w.extractLsb' 2 14)) ∧
    (decode w).wellFormed = true ∧
    decodeTableWord 16 w.toNat = some (decode w)

/-- The command words of 30_encoding.md R59 and 95_test_vectors.md §2.4, written out: the operations are the spec's, and that
each instruction keeps the upper bits of its word is the model's choice (log 9). -/
def Obligations.WrittenOutWordsDecode : Prop :=
  decode 0x0000#16 = .nop 0#14 ∧ decode 0x0001#16 = .pack 0#14 ∧ decode 0x0002#16 = .unpack 0#14 ∧
  decode 0x0003#16 = .verify 0#14 ∧ decode 0x0004#16 = .nop 1#14 ∧
  decode 0xFFFD#16 = .pack 0x3FFF#14 ∧ decode 0xFFFF#16 = .verify 0x3FFF#14

/-- 30_encoding.md R46: bits [15:2] of the command word change nothing. -/
def Obligations.OpAloneSelectsTheOperation : Prop :=
  ∀ w v : Word, w.extractLsb' 0 2 = v.extractLsb' 0 2 →
    ∀ s : State, exec (decode w) s = exec (decode v) s ∧ hostWrite 0x00#8 w s = hostWrite 0x00#8 v s

/-- 10_state.md R13: a write to CMD performs the operation d[1:0] selects in the same step; CMD reads as 0x0000 in every
state, and nothing of the word is kept. -/
def Obligations.CmdPerformsAndHoldsNothing : Prop :=
  ∀ (d : Word) (s : State),
    hostWrite 0x00#8 d s = exec (decode d) s ∧
    hostRead 0x00#8 s = 0x0000#16 ∧
    (∀ v : Word, v.extractLsb' 0 2 = d.extractLsb' 0 2 → hostWrite 0x00#8 v s = hostWrite 0x00#8 d s)

/-- A step whose pending line writes a word to CMD is exec of the decoded word, with that line issued (10_state.md R9, R13).
The pending list is the model's own (log 3). -/
def Obligations.StepRunsTheCommandWord : Prop :=
  (∀ (s : State) (d : Datum) (w : Word) (rest : List Line),
    s.port.pending = .write 0x00#8 d :: rest → datumWord d s = .ok w →
    step s = exec (decode w) { s with port := { s.port with pending := rest } }) ∧
  (∀ (s : State) (w : Word), step (s.withFetchWord 16 w.toNat) = exec (decode w) s)

/-- What every other step is (10_state.md R9, 20_memory.md R31 and R32, 70_reset_and_hazards.md R84): a write elsewhere, a
read, a reset, and a host with nothing pending. That a step with nothing pending leaves the state is the model's choice (log
4), and so are the pending list and the replies (log 3, log 5). -/
def Obligations.StepIssuesOneTransaction : Prop :=
  ∀ (s : State) (rest : List Line),
    (s.port.pending = [] → step s = .next s) ∧
    (∀ (a : Addr) (d : Datum) (w : Word), s.port.pending = .write a d :: rest → datumWord d s = .ok w →
      step s = hostWrite a w { s with port := { s.port with pending := rest } }) ∧
    (∀ (a : Addr) (b : Option Name), s.port.pending = .read a b :: rest → (∀ c, regAt a = .status c → statusOf c s ≠ 3#2) →
      step s = .next { s with port := { pending := rest, replies := ⟨b, hostRead a s⟩ :: s.port.replies } }) ∧
    (s.port.pending = .reset :: rest →
      step s = .next { State.reset with port := { s.port with pending := rest } })

/-- The model's own stops (log 6, log 7): a line that sends an unread name is refused, a read of status code 3 faults, and no
step stops in another way. -/
def Obligations.StepStopsOnlyAsNamed : Prop :=
  (∀ (s : State) (r : Fault), step s = .fault r →
    ∃ a b c rest, s.port.pending = .read a b :: rest ∧ regAt a = .status c ∧ statusOf c s = 3#2 ∧
      r = .reservedStatusCode c) ∧
  (∀ (s : State) (r : Refusal), step s = .refused r →
    ∃ a n rest, s.port.pending = .write a (.named n) :: rest ∧ lookupName n s.port.replies = none ∧ r = .unboundName n) ∧
  ∀ (s : State) (rest : List Line),
    (∀ (a : Addr) (n : Name), s.port.pending = .write a (.named n) :: rest → lookupName n s.port.replies = none →
      step s = .refused (.unboundName n)) ∧
    (∀ (a : Addr) (b : Option Name) (c : Channel), s.port.pending = .read a b :: rest → regAt a = .status c →
      statusOf c s = 3#2 → step s = .fault (.reservedStatusCode c))

/-! ## NOP -/

/-- 42_control.md R73: NOP reads and writes no register, in any form of its command word. -/
def Obligations.NopLeavesTheState : Prop :=
  (∀ (g : BitVec 14) (s : State), exec (.nop g) s = .next s) ∧
  (∀ (w : Word) (s : State), w.extractLsb' 0 2 = 0b00#2 → hostWrite 0x00#8 w s = .next s)

/-! ## PACK -/

/-- 40_frame_codec.md R62: the range check, and its bound register by register. The clock-enable bytes have none. -/
def Obligations.RangeCheckBounds : Prop :=
  (∀ (v : Word) (w : Nat), inRange v w = true ↔ v.toNat < 2 ^ w) ∧
  (∀ s : State, allInRange Config.fieldTable s = true ↔ s.fields.Fit)

/-- 40_frame_codec.md R63: PACK is all-or-nothing. With every field in range it completes, writing all fifteen bytes and
TX_STATUS = 1 and nothing else; otherwise it writes TX_STATUS = 2 and nothing else, TX_FRAME included. -/
def Obligations.PackIsAllOrNothing : Prop :=
  ∀ (g : BitVec 14) (s : State),
    (s.fields.Fit →
      exec (.pack g) s = .next { s with txFrame := configFrame Config.fieldTable s, txStatus := 1#2 }) ∧
    (¬ s.fields.Fit → exec (.pack g) s = .next { s with txStatus := 2#2 })

/-- 30_encoding.md R53: the fifteen bytes by the closed formulas, for field values in range, and the formulas' terms occupy
disjoint bits. -/
def Obligations.PackedBytesByFormula : Prop :=
  ∀ (g : BitVec 14) (s : State), s.fields.Fit →
    exec (.pack g) s = .next { s with
      txStatus := 1#2
      txFrame := #v[s.ce[0], s.ce[1], s.ce[2], s.ce[3], s.ce[4], s.ce[5], s.ce[6], s.ce[7],
        ((s.fields.clkf <<< 2) ||| (s.fields.clkr >>> 2)).setWidth 8,
        (((s.fields.clkr &&& 0x3#16) <<< 6) ||| (s.fields.clkod <<< 2) ||| (s.fields.bwadj >>> 6)).setWidth 8,
        (((s.fields.bwadj &&& 0x3F#16) <<< 2) ||| (s.fields.chipX >>> 3)).setWidth 8,
        (((s.fields.chipX &&& 0x7#16) <<< 5) ||| s.fields.chipY).setWidth 8,
        (s.fields.delay >>> 2).setWidth 8,
        (((s.fields.delay &&& 0x3#16) <<< 6) ||| (s.fields.width <<< 1) ||| (s.fields.mask >>> 7)).setWidth 8,
        (((s.fields.mask &&& 0x7F#16) <<< 1) ||| s.fields.debugMode).setWidth 8] } ∧
    (s.fields.clkf <<< 2) &&& (s.fields.clkr >>> 2) = 0 ∧
    ((s.fields.clkr &&& 0x3#16) <<< 6) &&& (s.fields.clkod <<< 2) = 0 ∧
    ((s.fields.clkr &&& 0x3#16) <<< 6) &&& (s.fields.bwadj >>> 6) = 0 ∧
    (s.fields.clkod <<< 2) &&& (s.fields.bwadj >>> 6) = 0 ∧
    ((s.fields.bwadj &&& 0x3F#16) <<< 2) &&& (s.fields.chipX >>> 3) = 0 ∧
    ((s.fields.chipX &&& 0x7#16) <<< 5) &&& s.fields.chipY = 0 ∧
    ((s.fields.delay &&& 0x3#16) <<< 6) &&& (s.fields.width <<< 1) = 0 ∧
    ((s.fields.delay &&& 0x3#16) <<< 6) &&& (s.fields.mask >>> 7) = 0 ∧
    (s.fields.width <<< 1) &&& (s.fields.mask >>> 7) = 0 ∧
    ((s.fields.mask &&& 0x7F#16) <<< 1) &&& s.fields.debugMode = 0

/-- 30_encoding.md R50 over the table of R52, written out here: PACK places every field MSB-first at its stream offset. -/
def Obligations.PackPlacesFieldsMsbFirst : Prop :=
  ∀ (g : BitVec 14) (s : State), s.fields.Fit →
    ∃ t, exec (.pack g) s = .next t ∧
      ∀ row ∈ [(s.fields.clkf, 6, 64), (s.fields.clkr, 4, 70), (s.fields.clkod, 4, 74), (s.fields.bwadj, 8, 78),
          (s.fields.chipX, 5, 86), (s.fields.chipY, 5, 91), (s.fields.delay, 10, 96), (s.fields.width, 5, 106),
          (s.fields.mask, 8, 111), (s.fields.debugMode, 1, 119)],
        ∀ j, j < row.2.1 → streamBit t.txFrame (row.2.2 + j) = row.1.getLsbD (row.2.1 - 1 - j)

/-- 30_encoding.md R49: bytes 1..8 of the frame are the clock-enable bytes, and config-side cluster c is stream bit S[c],
bit 7 - (c mod 8) of byte (c div 8) + 1. -/
def Obligations.PackCopiesClockEnables : Prop :=
  ∀ (g : BitVec 14) (s : State), s.fields.Fit →
    ∃ t, exec (.pack g) s = .next t ∧
      (∀ k : Fin 8, t.txFrame[k.val] = s.ce[k.val]) ∧
      (∀ c : Fin 64, streamBit t.txFrame c.val = clusterEnabled s c.val ∧
        clusterEnabled s c.val = (t.txFrame[c.val / 8]).getLsbD (7 - c.val % 8))

/-- 30_encoding.md R51: whatever legal field table is in use, `pll_clkr` is split over bytes 9 and 10; and the table of R52
is legal. Which tables are legal is the model's inference from R51, R52, R54 and U4 (log 2). -/
def Obligations.ClkrSplitInEveryLegalTable : Prop :=
  Config.fieldTable.legal ∧
  ∀ (T : FieldTable) (s : State), T.legal → allInRange T s = true →
    (packWith T s).txFrame[8].extractLsb' 0 2 = s.fields.clkr.extractLsb' 2 2 ∧
    (packWith T s).txFrame[9].extractLsb' 6 2 = s.fields.clkr.extractLsb' 0 2

/-- 40_frame_codec.md R64 (2), for every legal field table: changing one field register changes only the frame bits that the
table assigns to that field. For tables other than the default two things are the model's: which tables are legal (log 2), and
that a bit no row covers holds the same value in every PACK (log 17). -/
def Obligations.ChangingOneFieldChangesOnlyItsBits : Prop :=
  ∀ (T : FieldTable) (s : State) (f : Field) (v : Word), T.legal →
    allInRange T s = true → allInRange T { s with fields := s.fields.set f v } = true →
    ∀ j, j < 120 → (∀ r ∈ T, r.field = f → r.covers j = false) →
      streamBit (packWith T { s with fields := s.fields.set f v }).txFrame j = streamBit (packWith T s).txFrame j

/-- 30_encoding.md R54: stream bits 0..63 are the clock-enable bytes', each bit 64..119 is in exactly one field of the table,
the widths add up to 120, and every fifteen bytes are the PACK output of exactly one in-range configuration. -/
def Obligations.EveryFrameIsOneConfiguration : Prop :=
  (∀ (g : BitVec 14) (s : State), s.fields.Fit →
    ∃ t, exec (.pack g) s = .next t ∧ ∀ j, j < 64 → streamBit t.txFrame j = streamBit s.ce j) ∧
  64 + (Config.fieldTable.map (fun r => r.width)).sum = 15 * 8 ∧
  (∀ r ∈ Config.fieldTable, 64 ≤ r.offset ∧ r.offset + r.width ≤ 120) ∧
  (∀ j, 64 ≤ j → j < 120 → ∃! r, r ∈ Config.fieldTable ∧ r.covers j = true) ∧
  (∀ F : Vector Byte 15, ∃! c : Vector Byte 8 × FieldRegs, c.2.Fit ∧
    ∀ (g : BitVec 14) (s : State), s.ce = c.1 → s.fields = c.2 →
      exec (.pack g) s = .next { s with txFrame := F, txStatus := 1#2 })

/-- 40_frame_codec.md R64 (1) and (3): PACK is idempotent, its result depends on nothing but CE and F_*, and two successful
PACKs with different inputs give different frames. -/
def Obligations.PackIsAPureInjection : Prop :=
  (∀ (g h : BitVec 14) (s t : State), exec (.pack g) s = .next t → exec (.pack h) t = .next t) ∧
  (∀ (g h : BitVec 14) (s u : State), s.ce = u.ce → s.fields = u.fields →
    ∃ t v, exec (.pack g) s = .next t ∧ exec (.pack h) u = .next v ∧ t.txStatus = v.txStatus ∧
      (t.txStatus = 1#2 → t.txFrame = v.txFrame)) ∧
  (∀ (g h : BitVec 14) (s u t v : State), exec (.pack g) s = .next t → exec (.pack h) u = .next v →
    t.txStatus = 1#2 → v.txStatus = 1#2 → t.txFrame = v.txFrame → s.ce = u.ce ∧ s.fields = u.fields)

/-- 60_exceptions.md R77: the code PACK reports, and the frame it builds, do not depend on the order in which the fields are
checked. For tables other than the default two things are the model's: which tables are legal, so that at most one row covers a
bit (log 2), and that the value of a bit no row covers depends on its position alone (log 17). -/
def Obligations.CheckOrderDoesNotMatter : Prop :=
  ∀ (T U : FieldTable) (s : State), T.legal → T.Perm U → packWith U s = packWith T s

/-- The frame of PACK: no other address reads differently and the host's side is untouched (10_state.md R10, R17,
40_frame_codec.md R63). -/
def Obligations.PackChangesOnlyTxChannel : Prop :=
  ∀ (g : BitVec 14) (s t : State), exec (.pack g) s = .next t →
    t.port = s.port ∧
    ∀ a : Addr, a ≠ 0x01#8 → (a.toNat < 0x20 ∨ 0x2E < a.toNat) → hostRead a t = hostRead a s

/-! ## UNPACK -/

/-- 40_frame_codec.md R65: what UNPACK writes when 19 bytes are there, each register by its bits of RX_BUF, and what it
leaves alone; with fewer than 19, RX_STATUS = 2 and nothing else. -/
def Obligations.UnpackDecodesOrReportsShort : Prop :=
  ∀ (g : BitVec 14) (s : State),
    (19 ≤ s.rxLen.toNat →
      exec (.unpack g) s = .next { s with
        rxStatus := 1#2
        tL5 := s.rxBuf[0].extractLsb' 7 1
        tL4 := s.rxBuf[0].extractLsb' 3 4
        tL3 := s.rxBuf[1] ++ s.rxBuf[2]
        tL2Busy := s.rxBuf[3] ++ s.rxBuf[4] ++ s.rxBuf[5] ++ s.rxBuf[6] ++ s.rxBuf[7] ++ s.rxBuf[8] ++ s.rxBuf[9] ++
          s.rxBuf[10]
        tL2Done := s.rxBuf[11] ++ s.rxBuf[12] ++ s.rxBuf[13] ++ s.rxBuf[14] ++ s.rxBuf[15] ++ s.rxBuf[16] ++
          s.rxBuf[17] ++ s.rxBuf[18] }) ∧
    (s.rxLen.toNat < 19 → exec (.unpack g) s = .next { s with rxStatus := 2#2 })

/-- 30_encoding.md R55: every cluster bit of the telemetry frame's stream, in the numbering of the table. -/
def Obligations.TelemetryClustersByStreamBit : Prop :=
  ∀ (g : BitVec 14) (s : State), s.rxLen.toNat = 19 →
    ∃ t, exec (.unpack g) s = .next t ∧
      t.tL5.getLsbD 0 = streamBit s.rxBuf 0 ∧
      (∀ n, 1 ≤ n → n ≤ 4 → l4ClusterBusy t n = streamBit s.rxBuf (1 + (n - 1))) ∧
      (∀ n, 1 ≤ n → n ≤ 16 → l3ClusterBusy t n = streamBit s.rxBuf (8 + (n - 1))) ∧
      (∀ n, 1 ≤ n → n ≤ 64 → l2ClusterBusy t n = streamBit s.rxBuf (24 + (n - 1))) ∧
      (∀ n, 1 ≤ n → n ≤ 64 → l2ClusterDone t n = streamBit s.rxBuf (88 + (n - 1)))

/-- 30_encoding.md R57: telemetry L2 cluster n and config-side cluster n - 1 are the same stream position of their bitmaps,
which start at stream bit 0 of the configuration frame and at bits 24 and 88 of the telemetry frame. The names of the bits are the
accessors of log 16. -/
def Obligations.BothClusterNumberingsNameOnePosition : Prop :=
  ∀ (g h : BitVec 14) (s : State) (n : Nat), 1 ≤ n → n ≤ 64 → s.fields.Fit → s.rxLen.toNat = 19 →
    ∃ t u, exec (.pack g) s = .next t ∧ exec (.unpack h) t = .next u ∧
      clusterEnabled u (configCluster n) = streamBit u.txFrame (n - 1) ∧
      l2ClusterBusy u n = streamBit u.rxBuf (24 + (n - 1)) ∧ l2ClusterDone u n = streamBit u.rxBuf (88 + (n - 1))

/-- 40_frame_codec.md R66: the length test, and that no host write can give RX_LEN more than 19. -/
def Obligations.ShortBufferBelowNineteen : Prop :=
  (∀ (g : BitVec 14) (s : State), s.rxLen.toNat < 19 → exec (.unpack g) s = .next { s with rxStatus := 2#2 }) ∧
  (∀ (g : BitVec 14) (s : State), 19 ≤ s.rxLen.toNat → ∃ t, exec (.unpack g) s = .next t ∧ t.rxStatus = 1#2) ∧
  (∀ (d : Word) (s : State), ∃ t, hostWrite 0x04#8 d s = .next t ∧ t.rxLen.toNat ≤ 19)

/-- 40_frame_codec.md R67, 30_encoding.md R56: bits [2:0] of RX_BUF[1] change neither the T_* registers nor RX_STATUS. -/
def Obligations.UnpackIgnoresReservedBits : Prop :=
  ∀ (g : BitVec 14) (s : State) (b : Byte), b.extractLsb' 3 5 = s.rxBuf[0].extractLsb' 3 5 →
    ∃ t u, exec (.unpack g) s = .next t ∧ exec (.unpack g) { s with rxBuf := s.rxBuf.set 0 b } = .next u ∧
      u.tL5 = t.tL5 ∧ u.tL4 = t.tL4 ∧ u.tL3 = t.tL3 ∧ u.tL2Busy = t.tL2Busy ∧ u.tL2Done = t.tL2Done ∧
      u.rxStatus = t.rxStatus

/-- 40_frame_codec.md R68: UNPACK reads RX_LEN and RX_BUF only, so states that agree on them get the same results. -/
def Obligations.UnpackReadsOnlyRxBuffer : Prop :=
  ∀ (g : BitVec 14) (s u : State), s.rxLen = u.rxLen → s.rxBuf = u.rxBuf →
    ∃ t v, exec (.unpack g) s = .next t ∧ exec (.unpack g) u = .next v ∧ t.rxStatus = v.rxStatus ∧
      (t.rxStatus = 1#2 → t.tL5 = v.tL5 ∧ t.tL4 = v.tL4 ∧ t.tL3 = v.tL3 ∧ t.tL2Busy = v.tL2Busy ∧ t.tL2Done = v.tL2Done)

/-- 20_memory.md R40: the four words of the 64-bit telemetry registers, most significant first, and word 0 of T_L2BUSY after a
successful UNPACK. -/
def Obligations.TelemetryWordsMostSignificantFirst : Prop :=
  (∀ (s : State) (w : Fin 4),
    hostRead (BitVec.ofNat 8 (0x4B + w.val)) s = s.tL2Busy.extractLsb' (48 - 16 * w.val) 16 ∧
    hostRead (BitVec.ofNat 8 (0x4F + w.val)) s = s.tL2Done.extractLsb' (48 - 16 * w.val) 16) ∧
  (∀ (s : State) (w : Fin 4) (b : Fin 16),
    (hostRead (BitVec.ofNat 8 (0x4B + w.val)) s).getLsbD (15 - b.val) = l2ClusterBusy s (16 * w.val + b.val + 1) ∧
    (hostRead (BitVec.ofNat 8 (0x4F + w.val)) s).getLsbD (15 - b.val) = l2ClusterDone s (16 * w.val + b.val + 1)) ∧
  (∀ (g : BitVec 14) (s t : State), exec (.unpack g) s = .next t → t.rxStatus = 1#2 →
    hostRead 0x4B#8 t = s.rxBuf[3] ++ s.rxBuf[4])

/-- The frame of UNPACK: only RX_STATUS (0x02) and the telemetry registers (0x48..0x52) may read differently (10_state.md
R10, R17). -/
def Obligations.UnpackChangesOnlyRxChannel : Prop :=
  ∀ (g : BitVec 14) (s t : State), exec (.unpack g) s = .next t →
    t.port = s.port ∧
    ∀ a : Addr, a ≠ 0x02#8 → (a.toNat < 0x48 ∨ 0x52 < a.toNat) → hostRead a t = hostRead a s

/-! ## VERIFY -/

/-- 41_echo_verifier.md R69: VERIFY always completes, with MATCH exactly when the lengths are equal and the bytes up to them
are, and writes VF_STATUS only. The hypothesis is what R19 says of EXP_LEN (VMAX is at most 64); `EveryStepKeepsBounds` keeps it. -/
def Obligations.VerifyComparesLengthAndBytes : Prop :=
  ∀ (g : BitVec 14) (s : State), s.expLen.toNat ≤ 64 →
    ((s.expLen = s.rcvLen ∧ ∀ i : Fin 64, i.val < s.expLen.toNat → s.expBuf[i.val] = s.rcvBuf[i.val]) →
      exec (.verify g) s = .next { s with vfStatus := 1#2 }) ∧
    (¬ (s.expLen = s.rcvLen ∧ ∀ i : Fin 64, i.val < s.expLen.toNat → s.expBuf[i.val] = s.rcvBuf[i.val]) →
      exec (.verify g) s = .next { s with vfStatus := 2#2 })

/-- 41_echo_verifier.md R70: different lengths give MISMATCH whatever the buffers hold, and a content mismatch gives the same
code 2 and the same state, with no record of which it was. -/
def Obligations.LengthMismatchComesFirst : Prop :=
  ∀ (g : BitVec 14) (s : State),
    (s.expLen ≠ s.rcvLen →
      ∀ e r : Vector Byte 64, exec (.verify g) { s with expBuf := e, rcvBuf := r } =
        .next { s with expBuf := e, rcvBuf := r, vfStatus := 2#2 }) ∧
    (s.expLen = s.rcvLen → (∃ i : Fin 64, i.val < s.expLen.toNat ∧ s.expBuf[i.val] ≠ s.rcvBuf[i.val]) →
      exec (.verify g) s = .next { s with vfStatus := 2#2 })

/-- 41_echo_verifier.md R71: bytes beyond the lengths take no part in the result and stay as they are. -/
def Obligations.BytesBeyondTheLengthsDoNotCount : Prop :=
  ∀ (g : BitVec 14) (s : State) (e r : Vector Byte 64),
    (∀ i : Fin 64, i.val < s.expLen.toNat → e[i.val] = s.expBuf[i.val]) →
    (∀ i : Fin 64, i.val < s.rcvLen.toNat → r[i.val] = s.rcvBuf[i.val]) →
    ∃ t u, exec (.verify g) s = .next t ∧ exec (.verify g) { s with expBuf := e, rcvBuf := r } = .next u ∧
      u.vfStatus = t.vfStatus ∧ u.expBuf = e ∧ u.rcvBuf = r

/-- 41_echo_verifier.md R72: reflexivity for every length 0..VMAX, one byte short, any single flipped bit, symmetry, and
dependence on the operands alone. -/
def Obligations.VerifyProperties : Prop :=
  ∀ (g : BitVec 14) (s : State), s.expLen.toNat ≤ Config.vmax →
    (s.rcvLen = s.expLen → s.rcvBuf = s.expBuf → exec (.verify g) s = .next { s with vfStatus := 1#2 }) ∧
    (s.rcvLen.toNat + 1 = s.expLen.toNat → exec (.verify g) s = .next { s with vfStatus := 2#2 }) ∧
    (∀ (i : Fin 64) (b : Fin 8), i.val < s.expLen.toNat →
      ∀ r : Vector Byte 64, r = s.expBuf.set i.val (s.expBuf[i.val] ^^^ BitVec.twoPow 8 b.val) →
        exec (.verify g) { s with rcvLen := s.expLen, rcvBuf := r } =
          .next { s with rcvLen := s.expLen, rcvBuf := r, vfStatus := 2#2 }) ∧
    (∃ t u, exec (.verify g) s = .next t ∧
      exec (.verify g) { s with expLen := s.rcvLen, expBuf := s.rcvBuf, rcvLen := s.expLen, rcvBuf := s.expBuf } = .next u ∧
      u.vfStatus = t.vfStatus) ∧
    (∀ (h : BitVec 14) (u : State), u.expLen = s.expLen → u.rcvLen = s.rcvLen → u.expBuf = s.expBuf → u.rcvBuf = s.rcvBuf →
      ∃ t v, exec (.verify g) s = .next t ∧ exec (.verify h) u = .next v ∧ v.vfStatus = t.vfStatus)

/-- The frame of VERIFY: only VF_STATUS (0x03) may read differently (10_state.md R10, R17, 41_echo_verifier.md R69). -/
def Obligations.VerifyChangesOnlyVfStatus : Prop :=
  ∀ (g : BitVec 14) (s t : State), exec (.verify g) s = .next t →
    t.port = s.port ∧ ∀ a : Addr, a ≠ 0x03#8 → hostRead a t = hostRead a s

/-! ## Errors and status -/

/-- 60_exceptions.md R74: an error leaves the state before the operation with exactly that one status register changed, and
the next host transaction proceeds normally. The last part is for a state in bounds, where it can: elsewhere a status may
hold code 3 already, and a read of it stops (log 7). -/
def Obligations.ErrorReportIsPrecise : Prop :=
  (∀ (g : BitVec 14) (s t : State), exec (.pack g) s = .next t → t.txStatus = 2#2 → t = { s with txStatus := 2#2 }) ∧
  (∀ (g : BitVec 14) (s t : State), exec (.unpack g) s = .next t → t.rxStatus = 2#2 → t = { s with rxStatus := 2#2 }) ∧
  (∀ (i : Instr) (s t : State), s.InBounds → exec i s = .next t →
    ∀ (b : Option Name) (x : Transaction), ∃ u, transact b x t = .next u)

/-- 60_exceptions.md R75: which condition gives which code, that nothing else is recorded, that each code is raised by its one
operation only, and that nothing else is ever reported: a host transaction cannot fail, and neither can NOP. -/
def Obligations.ReportedConditionsAreComplete : Prop :=
  (∀ (g : BitVec 14) (s t : State), exec (.pack g) s = .next t →
    (t.txStatus = 2#2 ↔ ¬ s.fields.Fit) ∧ (t.txStatus = 2#2 → t = { s with txStatus := 2#2 })) ∧
  (∀ (g : BitVec 14) (s t : State), exec (.unpack g) s = .next t →
    (t.rxStatus = 2#2 ↔ s.rxLen.toNat < 19) ∧ (t.rxStatus = 2#2 → t = { s with rxStatus := 2#2 })) ∧
  (∀ (g : BitVec 14) (s t : State), s.InBounds → exec (.verify g) s = .next t →
    (t.vfStatus = 2#2 ↔ (s.expLen ≠ s.rcvLen ∨ ∃ i : Fin 64, i.val < s.expLen.toNat ∧ s.expBuf[i.val] ≠ s.rcvBuf[i.val])) ∧
    (t.vfStatus = 2#2 → t = { s with vfStatus := 2#2 })) ∧
  (∀ (i : Instr) (s t : State), exec i s = .next t →
    (t.txStatus ≠ s.txStatus → ∃ g, i = .pack g) ∧ (t.rxStatus ≠ s.rxStatus → ∃ g, i = .unpack g) ∧
    (t.vfStatus ≠ s.vfStatus → ∃ g, i = .verify g)) ∧
  (∀ (s : State) (b : Option Name) (x : Transaction), s.InBounds → ∃ t, transact b x s = .next t) ∧
  (∀ (g : BitVec 14) (s : State), exec (.nop g) s = .next s)

/-- 10_state.md R17: in any transaction of the host, which is any step of the block, a status changes only by its own
operation or by reset. -/
def Obligations.OnlyItsOperationWritesAStatus : Prop :=
  ∀ (b : Option Name) (x : Transaction) (s t : State), transact b x s = .next t →
    x = .reset ∨
    ((t.txStatus = s.txStatus ∨ ∃ w, x = .write 0x00#8 w ∧ w.extractLsb' 0 2 = 0b01#2) ∧
     (t.rxStatus = s.rxStatus ∨ ∃ w, x = .write 0x00#8 w ∧ w.extractLsb' 0 2 = 0b10#2) ∧
     (t.vfStatus = s.vfStatus ∨ ∃ w, x = .write 0x00#8 w ∧ w.extractLsb' 0 2 = 0b11#2))

/-- 10_state.md R10: "no operation writes an input register", nor the host's side of the port. -/
def Obligations.OperationsWriteNoInputRegister : Prop :=
  ∀ (i : Instr) (s t : State), exec i s = .next t →
    t.ce = s.ce ∧ t.fields = s.fields ∧ t.rxBuf = s.rxBuf ∧ t.rxLen = s.rxLen ∧ t.expBuf = s.expBuf ∧
    t.expLen = s.expLen ∧ t.rcvBuf = s.rcvBuf ∧ t.rcvLen = s.rcvLen ∧ t.port = s.port

/-- 10_state.md R23 to R27, R14 to R16 and 70_reset_and_hazards.md R88: a host write other than to CMD changes no output
register and no status, so outputs are snapshots. -/
def Obligations.OutputsAreSnapshots : Prop :=
  ∀ (a : Addr) (d : Word) (s : State), a ≠ 0x00#8 →
    ∃ t, hostWrite a d s = .next t ∧
      t.txStatus = s.txStatus ∧ t.rxStatus = s.rxStatus ∧ t.vfStatus = s.vfStatus ∧ t.txFrame = s.txFrame ∧
      t.tL5 = s.tL5 ∧ t.tL4 = s.tL4 ∧ t.tL3 = s.tL3 ∧ t.tL2Busy = s.tL2Busy ∧ t.tL2Done = s.tL2Done ∧ t.port = s.port

/-! ## Host access -/

/-- 20_memory.md R31: the effect of a host write at every address of the map. -/
def Obligations.HostWriteEffects : Prop :=
  ∀ (d : Word) (s : State),
    hostWrite 0x00#8 d s = exec (decode d) s ∧
    (∀ f : Field, hostWrite (BitVec.ofNat 8 (0x10 + fieldIndex f)) d s = .next { s with fields := s.fields.set f d }) ∧
    (∀ k : Fin 8, hostWrite (BitVec.ofNat 8 (0x08 + k.val)) d s =
      .next { s with ce := s.ce.set k.val (d.extractLsb' 0 8) }) ∧
    (∀ k : Fin 19, hostWrite (BitVec.ofNat 8 (0x30 + k.val)) d s =
      .next { s with rxBuf := s.rxBuf.set k.val (d.extractLsb' 0 8) }) ∧
    (∀ i : Fin 64, i.val < Config.vmax → hostWrite (BitVec.ofNat 8 (0x80 + i.val)) d s =
      .next { s with expBuf := s.expBuf.set i.val (d.extractLsb' 0 8) }) ∧
    (∀ i : Fin 64, i.val < Config.vmax → hostWrite (BitVec.ofNat 8 (0xC0 + i.val)) d s =
      .next { s with rcvBuf := s.rcvBuf.set i.val (d.extractLsb' 0 8) }) ∧
    hostWrite 0x04#8 d s = .next { s with rxLen := BitVec.ofNat 5 (min d.toNat 19) } ∧
    hostWrite 0x05#8 d s = .next { s with expLen := BitVec.ofNat 7 (min d.toNat Config.vmax) } ∧
    hostWrite 0x06#8 d s = .next { s with rcvLen := BitVec.ofNat 7 (min d.toNat Config.vmax) } ∧
    (∀ n, (1 ≤ n ∧ n ≤ 3) ∨ (0x20 ≤ n ∧ n ≤ 0x2E) ∨ (0x48 ≤ n ∧ n ≤ 0x52) →
      hostWrite (BitVec.ofNat 8 n) d s = .next s) ∧
    (∀ n, n = 7 ∨ (0x1A ≤ n ∧ n ≤ 0x1F) ∨ n = 0x2F ∨ (0x43 ≤ n ∧ n ≤ 0x47) ∨ (0x53 ≤ n ∧ n ≤ 0x7F) ∨
        (0x80 + Config.vmax ≤ n ∧ n ≤ 0xBF) ∨ (0xC0 + Config.vmax ≤ n ∧ n ≤ 0xFF) →
      hostWrite (BitVec.ofNat 8 n) d s = .next s)

/-- 20_memory.md R32: the word a host read returns at every address of the map. -/
def Obligations.HostReadValues : Prop :=
  ∀ s : State,
    hostRead 0x00#8 s = 0x0000#16 ∧
    hostRead 0x01#8 s = s.txStatus.setWidth 16 ∧ hostRead 0x02#8 s = s.rxStatus.setWidth 16 ∧
    hostRead 0x03#8 s = s.vfStatus.setWidth 16 ∧
    hostRead 0x04#8 s = s.rxLen.setWidth 16 ∧ hostRead 0x05#8 s = s.expLen.setWidth 16 ∧
    hostRead 0x06#8 s = s.rcvLen.setWidth 16 ∧
    (∀ k : Fin 8, hostRead (BitVec.ofNat 8 (0x08 + k.val)) s = (s.ce[k.val]).setWidth 16) ∧
    (∀ f : Field, hostRead (BitVec.ofNat 8 (0x10 + fieldIndex f)) s = s.fields.get f) ∧
    (∀ k : Fin 15, hostRead (BitVec.ofNat 8 (0x20 + k.val)) s = (s.txFrame[k.val]).setWidth 16) ∧
    (∀ k : Fin 19, hostRead (BitVec.ofNat 8 (0x30 + k.val)) s = (s.rxBuf[k.val]).setWidth 16) ∧
    hostRead 0x48#8 s = s.tL5.setWidth 16 ∧ hostRead 0x49#8 s = s.tL4.setWidth 16 ∧ hostRead 0x4A#8 s = s.tL3 ∧
    (∀ w : Fin 4, hostRead (BitVec.ofNat 8 (0x4B + w.val)) s = s.tL2Busy.extractLsb' (48 - 16 * w.val) 16) ∧
    (∀ w : Fin 4, hostRead (BitVec.ofNat 8 (0x4F + w.val)) s = s.tL2Done.extractLsb' (48 - 16 * w.val) 16) ∧
    (∀ i : Fin 64, i.val < Config.vmax → hostRead (BitVec.ofNat 8 (0x80 + i.val)) s = (s.expBuf[i.val]).setWidth 16) ∧
    (∀ i : Fin 64, i.val < Config.vmax → hostRead (BitVec.ofNat 8 (0xC0 + i.val)) s = (s.rcvBuf[i.val]).setWidth 16) ∧
    (∀ n, n = 7 ∨ (0x1A ≤ n ∧ n ≤ 0x1F) ∨ n = 0x2F ∨ (0x43 ≤ n ∧ n ≤ 0x47) ∨ (0x53 ≤ n ∧ n ≤ 0x7F) ∨
        (0x80 + Config.vmax ≤ n ∧ n ≤ 0xBF) ∨ (0xC0 + Config.vmax ≤ n ∧ n ≤ 0xFF) →
      hostRead (BitVec.ofNat 8 n) s = 0x0000#16) ∧
    (∀ (a : Addr) (b : Option Name) (t : State), transact b (.read a) s = .next t → t = { s with port := t.port })

/-- 20_memory.md R33 and R34: reserved addresses and buffer places beyond VMAX read as zero in every state, reachable or not,
and ignore writes. -/
def Obligations.ReservedAddressesHoldNothing : Prop :=
  (∀ (s : State) (d : Word) (n : Nat),
    n = 7 ∨ (0x1A ≤ n ∧ n ≤ 0x1F) ∨ n = 0x2F ∨ (0x43 ≤ n ∧ n ≤ 0x47) ∨ (0x53 ≤ n ∧ n ≤ 0x7F) →
    hostRead (BitVec.ofNat 8 n) s = 0x0000#16 ∧ hostWrite (BitVec.ofNat 8 n) d s = .next s) ∧
  (∀ (s : State) (d : Word) (i : Nat), Config.vmax < i → i ≤ 64 →
    hostRead (BitVec.ofNat 8 (0x7F + i)) s = 0x0000#16 ∧ hostWrite (BitVec.ofNat 8 (0x7F + i)) d s = .next s ∧
    hostRead (BitVec.ofNat 8 (0xBF + i)) s = 0x0000#16 ∧ hostWrite (BitVec.ofNat 8 (0xBF + i)) d s = .next s)

/-- 20_memory.md R35: a register of 8 bits keeps d[7:0] and the rest of d is discarded, with no status set. -/
def Obligations.ByteWritesKeepTheLowByte : Prop :=
  ∀ (s : State) (d : Word) (n : Nat),
    (0x08 ≤ n ∧ n ≤ 0x0F) ∨ (0x30 ≤ n ∧ n ≤ 0x42) ∨ (0x80 ≤ n ∧ n < 0x80 + Config.vmax) ∨ (0xC0 ≤ n ∧ n < 0xC0 + Config.vmax) →
    ∃ t, hostWrite (BitVec.ofNat 8 n) d s = .next t ∧ hostRead (BitVec.ofNat 8 n) t = d &&& 0x00FF#16 ∧
      t.txStatus = s.txStatus ∧ t.rxStatus = s.rxStatus ∧ t.vfStatus = s.vfStatus

/-- 20_memory.md R36: a length register stores the clamped value and a later read returns it. -/
def Obligations.LengthsAreClampedAndReadBack : Prop :=
  ∀ (s : State) (d : Word),
    (∃ t, hostWrite 0x04#8 d s = .next t ∧ t.rxLen.toNat = min d.toNat 19 ∧
      (hostRead 0x04#8 t).toNat = min d.toNat 19) ∧
    (∃ t, hostWrite 0x05#8 d s = .next t ∧ t.expLen.toNat = min d.toNat Config.vmax ∧
      (hostRead 0x05#8 t).toNat = min d.toNat Config.vmax) ∧
    (∃ t, hostWrite 0x06#8 d s = .next t ∧ t.rcvLen.toNat = min d.toNat Config.vmax ∧
      (hostRead 0x06#8 t).toNat = min d.toNat Config.vmax)

/-- 10_state.md R22: each field register stores the full 16-bit value and reads it back, and PACK's check sees it whole. -/
def Obligations.FieldRegistersAreNotTruncated : Prop :=
  ∀ (s : State) (f : Field) (d : Word),
    ∃ t, hostWrite (BitVec.ofNat 8 (0x10 + fieldIndex f)) d s = .next t ∧
      hostRead (BitVec.ofNat 8 (0x10 + fieldIndex f)) t = d ∧ t.fields.get f = d ∧
      ∀ h : Field, h ≠ f → t.fields.get h = s.fields.get h

/-- 20_memory.md R38: only a write to CMD has an effect beyond its own register; reads have none and are idempotent; writes to
input registers are idempotent. That the word read is put in front of the port's replies is the model's choice (log 5). -/
def Obligations.HostAccessHasNoSideEffects : Prop :=
  (∀ (a : Addr) (d : Word) (s t : State), a ≠ 0x00#8 → hostWrite a d s = .next t →
    (∀ b : Addr, b ≠ a → hostRead b t = hostRead b s) ∧ hostWrite a d t = .next t) ∧
  (∀ (a : Addr) (b : Option Name) (s t : State), transact b (.read a) s = .next t →
    (∀ x : Addr, hostRead x t = hostRead x s) ∧ t = { s with port := t.port } ∧
    ∃ w, t.port.replies = ⟨b, w⟩ :: s.port.replies ∧ w = hostRead a t)

/-- 70_reset_and_hazards.md R86, 20_memory.md R43: the order in which the host writes two registers does not matter. -/
def Obligations.WritesToDifferentRegistersCommute : Prop :=
  ∀ (a b : Addr) (d e : Word) (s : State), a ≠ b → a ≠ 0x00#8 → b ≠ 0x00#8 →
    ∃ t u v, hostWrite a d s = .next t ∧ hostWrite b e t = .next v ∧ hostWrite b e s = .next u ∧ hostWrite a d u = .next v

/-! ## Reset -/

/-- 70_reset_and_hazards.md R84: RESET, from any state and in one step, sets every register to zero, and the state at power-on
has the registers of the state after it. Nothing is said of the host's port, which is no part of the block (log 11). -/
def Obligations.ResetZeroesEveryRegister : Prop :=
  ∀ (s : State) (b : Option Name),
    ∃ t, transact b .reset s = .next t ∧ t = { State.reset with port := t.port } ∧
      t.txStatus = 0 ∧ t.rxStatus = 0 ∧ t.vfStatus = 0 ∧ t.rxLen = 0 ∧ t.expLen = 0 ∧ t.rcvLen = 0 ∧
      (∀ k : Fin 8, t.ce[k.val] = 0) ∧ (∀ f : Field, t.fields.get f = 0) ∧ (∀ k : Fin 15, t.txFrame[k.val] = 0) ∧
      (∀ k : Fin 19, t.rxBuf[k.val] = 0) ∧ t.tL5 = 0 ∧ t.tL4 = 0 ∧ t.tL3 = 0 ∧ t.tL2Busy = 0 ∧ t.tL2Done = 0 ∧
      (∀ i : Fin 64, t.expBuf[i.val] = 0) ∧ (∀ i : Fin 64, t.rcvBuf[i.val] = 0)

/-- 70_reset_and_hazards.md R85: the reset state is self-consistent. Right after RESET a PACK succeeds with fifteen zero bytes,
an UNPACK reports SHORT_BUFFER, a VERIFY gives MATCH, and any host transaction is accepted. -/
def Obligations.OperationsRightAfterReset : Prop :=
  (∀ g : BitVec 14,
    exec (.pack g) State.reset =
      .next { State.reset with txStatus := 1#2, txFrame := Vector.replicate 15 0x00#8 } ∧
    exec (.unpack g) State.reset = .next { State.reset with rxStatus := 2#2 } ∧
    exec (.verify g) State.reset = .next { State.reset with vfStatus := 1#2 }) ∧
  (∀ (b : Option Name) (x : Transaction), ∃ t, transact b x State.reset = .next t)

/-! ## Invariants and whole-machine safety -/

/-- The invariants hold at reset (70_reset_and_hazards.md R84). That `Safe` holds rests for its host part on the model's choices:
the port is empty at reset (log 11), and what a well-scoped program is (log 6). -/
def Obligations.InvariantsHoldAtReset : Prop :=
  State.reset.InBounds ∧ State.reset.EmptyMeansReset ∧ State.reset.Safe

/-- 10_state.md R14 to R16, R18 to R20, R28: no step writes status code 3, moves a length out of its range or stores a byte
beyond VMAX. From every state in bounds, reachable or not. That the buffers are held as 64 places, those beyond VMAX holding
0x00, is the model's choice (log 8). -/
def Obligations.EveryStepKeepsBounds : Prop :=
  ∀ s t : State, s.InBounds → step s = .next t → t.InBounds

/-- 10_state.md R14, R15, R23, R25 to R27: an EMPTY status always means that the channel's outputs hold their reset values. -/
def Obligations.EveryStepKeepsEmptyMeaning : Prop :=
  ∀ s t : State, s.EmptyMeansReset → step s = .next t → t.EmptyMeansReset

/-- The block never refuses a transaction and never traps (60_exceptions.md §5, R74, R76): from a safe state a step answers
a next state, which is safe again. That the host's program is well scoped is part of `Safe` (log 6). -/
def Obligations.SafeRunsNeverStop : Prop :=
  ∀ s : State, s.Safe → ∃ t, step s = .next t ∧ t.Safe

/-! ## Programs of the host, and the session -/

/-- The lines of a program, issued one after another, are as many steps of the machine (30_encoding.md R59, 10_state.md R9).
The pending list is the model's own (log 3). -/
def Obligations.LinesRunAsSteps : Prop :=
  ∀ (ls rest : List Line) (s t : State),
    runLines ls (withPending rest s) = .next t →
    Host.Core.run Sys2Proof.core ls.length (withPending (ls ++ rest) s) = .next t

/-- 30_encoding.md R60: `LOADRX`, `LOADEXP` and `LOADRCV` load their bytes and their length and nothing else. -/
def Obligations.LoadsFillBufferAndLength : Prop :=
  ∀ (bs : List Byte) (s : State),
    (bs.length ≤ 19 → ∃ b, runLines (expand (.loadRx (bs.map byteDatum))) s =
        .next { s with rxBuf := b, rxLen := BitVec.ofNat 5 bs.length } ∧
      ∀ k : Fin 19, b[k.val] = if h : k.val < bs.length then bs[k.val] else s.rxBuf[k.val]) ∧
    (bs.length ≤ Config.vmax → ∃ b, runLines (expand (.loadExp (bs.map byteDatum))) s =
        .next { s with expBuf := b, expLen := BitVec.ofNat 7 bs.length } ∧
      ∀ k : Fin 64, b[k.val] = if h : k.val < bs.length then bs[k.val] else s.expBuf[k.val]) ∧
    (bs.length ≤ Config.vmax → ∃ b, runLines (expand (.loadRcv (bs.map byteDatum))) s =
        .next { s with rcvBuf := b, rcvLen := BitVec.ofNat 7 bs.length } ∧
      ∀ k : Fin 64, b[k.val] = if h : k.val < bs.length then bs[k.val] else s.rcvBuf[k.val])

/-- 30_encoding.md R60 `COPYTX` (60_exceptions.md R81): the expected operand becomes the fifteen bytes of TX_FRAME.
The replies it leaves are the model's own (log 5). -/
def Obligations.CopyTxLoadsTheFrame : Prop :=
  ∀ s : State, ∃ e rs, runLines (expand .copyTx) s =
      .next { s with expBuf := e, expLen := 15#7, port := { s.port with replies := rs ++ s.port.replies } } ∧
    rs.length = 15 ∧
    (∀ k : Fin 15, e[k.val] = s.txFrame[k.val]) ∧
    (∀ k : Fin 64, 15 ≤ k.val → e[k.val] = s.expBuf[k.val])

/-- 60_exceptions.md R82: with the 15 frame bytes expected, a round gives MATCH exactly when the transport returned those
fifteen bytes; a short or failed read is a mismatch like any other. The round as source lines is the model's (log 12), and so is that its answer
stands first in the port's replies (log 5). -/
def Obligations.RoundMatchesExactEchoOnly : Prop :=
  ∀ (s : State) (received : List Byte), s.expLen = 15#7 → received.length ≤ 15 →
    ∃ t, runLines (expandAll (roundSource received)) s = .next t ∧
      t.expBuf = s.expBuf ∧ t.expLen = s.expLen ∧ t.ce = s.ce ∧ t.fields = s.fields ∧ t.txFrame = s.txFrame ∧
      t.port.replies =
        ⟨none, if received = s.expBuf.toList.take 15 then 0x0001#16 else 0x0002#16⟩ :: s.port.replies

/-- 60_exceptions.md R80, R81: the session from any state with an in-range configuration. All rounds run; the frame packed once
is the expected operand to the end, and the configuration stays; the tally counts the rounds whose received bytes are not the
packed frame; the outcome is success iff there is none. The model's choices: the session as source lines (log 12), and the tally
over the words the host has read, the newest first in the port's replies (log 5). -/
def Obligations.SessionSucceedsIffEveryEchoIsExact : Prop :=
  ∀ (s : State) (rounds : List (List Byte)), s.fields.Fit → (∀ r ∈ rounds, r.length ≤ 15) →
    ∃ t o, runSession rounds s = .next (t, some o) ∧
      t.txFrame = configFrame Config.fieldTable s ∧
      t.expBuf.toList.take 15 = (configFrame Config.fieldTable s).toList ∧ t.expLen = 15#7 ∧
      t.ce = s.ce ∧ t.fields = s.fields ∧
      mismatchTally rounds.length t =
        rounds.countP (fun r => decide (r ≠ (configFrame Config.fieldTable s).toList)) ∧
      (o = .success ↔ ∀ r ∈ rounds, r = (configFrame Config.fieldTable s).toList)

/-- 60_exceptions.md R81, 40_frame_codec.md R63: the expected operand is loaded after a successful PACK only. With a field out of
range the session reads OUT_OF_RANGE and ends: nothing is loaded, no round runs and there is no outcome. That it ends so is
the model's reading (log 12), and where the word read stands is its choice (log 5). -/
def Obligations.SessionEndsAtAFailedPack : Prop :=
  ∀ (s : State) (rounds : List (List Byte)), ¬ s.fields.Fit →
    runSession rounds s =
      .next ({ s with txStatus := 2#2, port := { s.port with replies := ⟨none, 0x0002#16⟩ :: s.port.replies } }, none)

/-- 60_exceptions.md R81: after the frame is loaded the host of a session writes neither EXP_* nor a configuration register,
asserts no RESET and issues no operation but VERIFY. The session as source lines is the model's (log 12). -/
def Obligations.SessionRoundsKeepTheOperands : Prop :=
  ∀ rounds : List (List Byte), (∀ r ∈ rounds, r.length ≤ 15) →
    ∀ l ∈ expandAll (rounds.flatMap roundSource), l ≠ .reset ∧
      ∀ (a : Addr) (d : Datum), l = .write a d →
        a ≠ 0x05#8 ∧ ¬ (0x80 ≤ a.toNat ∧ a.toNat ≤ 0xBF) ∧ ¬ (0x08 ≤ a.toNat ∧ a.toNat ≤ 0x19) ∧
        (a = 0x00#8 → d = .lit 0x0003#16)
end

