-- ==== Sys2Proof/Laws/AddressMap.lean ====
section
/-!
SUPPORT. The address map, forwards and backwards (20_memory.md R30).
-/

namespace Sys2Proof.Machine

/-- Every register's address names that register. -/
theorem regAt_addrOf {r : Reg} {a : Addr} (h : addrOf r = some a) : regAt a = r := by
  cases r with
  | status c => cases c <;> cases h <;> decide
  | field f => cases f <;> cases h <;> decide
  | ce k => cases h; revert k; decide
  | txFrame k => cases h; revert k; decide
  | rxBuf k => cases h; revert k; decide
  | tL2Busy w => cases h; revert w; decide
  | tL2Done w => cases h; revert w; decide
  | expBuf i => cases h; revert i; decide
  | rcvBuf i => cases h; revert i; decide
  | cmd => cases h; decide
  | rxLen => cases h; decide
  | expLen => cases h; decide
  | rcvLen => cases h; decide
  | tL5 => cases h; decide
  | tL4 => cases h; decide
  | tL3 => cases h; decide
  | reserved => cases h

/-- An address that is not reserved is the address of the register it names. -/
theorem addrOf_regAt {a : Addr} (h : regAt a ≠ .reserved) : addrOf (regAt a) = some a := by
  revert a; decide

/-- No two addresses name one register. -/
theorem regAt_injective {a b : Addr} (h : regAt a = regAt b) (hr : regAt a ≠ .reserved) : a = b := by
  have ha := addrOf_regAt hr
  rw [h] at ha hr
  rw [addrOf_regAt hr] at ha
  exact (Option.some.inj ha).symm

/-- Only address 0x00 is CMD. -/
theorem regAt_cmd_iff {a : Addr} : regAt a = .cmd ↔ a = 0x00#8 := by
  revert a; decide

@[simp] theorem regAt_zero : regAt 0x00#8 = .cmd := by decide

/-- A write to CMD performs the operation its word selects (10_state.md R13). -/
@[simp] theorem hostWrite_cmd (d : Word) (s : State) : hostWrite 0x00#8 d s = exec (decode d) s := by
  simp [hostWrite]

/-- A write anywhere else is the register's write and no more (20_memory.md R31). -/
theorem hostWrite_of_ne {a : Addr} (h : a ≠ 0x00#8) (d : Word) (s : State) :
    hostWrite a d s = .next (writeReg (regAt a) d s) := by
  have hc : regAt a ≠ .cmd := fun hc => h (regAt_cmd_iff.mp hc)
  unfold hostWrite
  split
  · exact absurd ‹_› hc
  · rfl

end Sys2Proof.Machine
end

