-- ==== Sys2Proof/Laws/Config.lean ====
section
/-!
SUPPORT. The bounds of VMAX (00_scope.md R5), the only facts anything may use about it.
-/

namespace Sys2Proof.Config

theorem vmax_ge : 15 ≤ vmax := Nat.le_add_right 15 _

theorem vmax_le : vmax ≤ 64 := by
  have h := vmaxAbove.isLt
  simp only [vmax]
  omega

end Sys2Proof.Config
end

