-- ==== Sys2Proof/Laws/Frame.lean ====
section
/-!
SUPPORT. Frames as bytes and as bit streams (00_scope.md R8): what the k-th byte of a stream holds, and what bit j of the
packed configuration frame is.
-/

namespace Sys2Proof.Machine

@[simp] theorem byteAt_of_lt {n : Nat} (b : Vector Byte n) {i : Nat} (h : i < n) : byteAt b i = b[i] := by
  simp [byteAt, h]

theorem byteAt_of_ge {n : Nat} (b : Vector Byte n) {i : Nat} (h : n ≤ i) : byteAt b i = 0x00#8 := by
  simp [byteAt, Vector.getElem?_eq_none h]

/-- Bit 7 - i of byte k of a stream is stream bit 8k + i. -/
theorem byteOfStream_getLsbD (S : Nat → Bool) (k : Nat) {i : Nat} (h : i < 8) :
    (byteOfStream S k).getLsbD (7 - i) = S (8 * k + i) := by
  unfold byteOfStream
  rw [BitVec.getLsbD_ofBoolListBE]
  interval_cases i <;> rfl

/-- The stream of the packed frame is the stream PACK builds (40_frame_codec.md R61). -/
theorem streamBit_configFrame (T : FieldTable) (s : State) {j : Nat} (h : j < 120) :
    streamBit (configFrame T s) j = configBit T s j := by
  have hk : j / 8 < 15 := by omega
  rw [streamBit, byteAt_of_lt _ hk, configFrame, Vector.getElem_ofFn, byteOfStream_getLsbD _ _ (by omega), Nat.div_add_mod]

/-- A frame is its stream: two frames with the same stream bits are equal. -/
theorem eq_of_streamBit {n : Nat} {F G : Vector Byte n} (h : ∀ j, j < 8 * n → streamBit F j = streamBit G j) : F = G := by
  ext k hk i hi
  have hj := h (8 * k + (7 - i)) (by omega)
  have h1 : (8 * k + (7 - i)) / 8 = k := by omega
  have h2 : 7 - (8 * k + (7 - i)) % 8 = i := by omega
  rw [streamBit, streamBit, h1, h2, byteAt_of_lt _ hk, byteAt_of_lt _ hk] at hj
  simpa [BitVec.getLsbD_eq_getElem hi] using hj

/-- Stream bits of a clock-enable byte (30_encoding.md R49). -/
theorem configBit_of_lt (T : FieldTable) (s : State) {j : Nat} (h : j < 64) :
    configBit T s j = streamBit s.ce j := by
  rw [configBit, if_pos h, streamBit]

/-- The row of a legal table that covers a bit is the only one that does. -/
theorem find_covering {T : FieldTable} (hT : T.legal) {r : FieldRow} (hr : r ∈ T) {j : Nat} (hj : r.covers j = true) :
    T.find? (fun q => q.covers j) = some r := by
  obtain ⟨-, hp, -, -⟩ := hT
  have hd : T.Pairwise (fun r q => r.disjoint q = true) := hp.imp (fun h => h.2)
  clear hp
  induction T with
  | nil => cases hr
  | cons q T ih =>
    rw [List.find?_cons]
    rcases List.mem_cons.mp hr with rfl | hrT
    · rw [hj]
    · have hq : q.covers j = false := by
        have := (List.pairwise_cons.mp hd).1 r hrT
        simp only [FieldRow.disjoint, FieldRow.covers, Bool.or_eq_true, Bool.and_eq_true, decide_eq_true_eq] at this hj
        simp only [FieldRow.covers, Bool.and_eq_false_iff, decide_eq_false_iff_not]
        omega
      rw [hq]
      exact ih hrT (List.pairwise_cons.mp hd).2

/-- Stream bit o + i of a field of width w at offset o is value bit w - 1 - i (30_encoding.md R50). -/
theorem configBit_of_row {T : FieldTable} (hT : T.legal) (s : State) {r : FieldRow} (hr : r ∈ T) {i : Nat}
    (hi : i < r.width) : configBit T s (r.offset + i) = (s.fields.get r.field).getLsbD (r.width - 1 - i) := by
  have hb := hT.2.2.1 r hr
  have hc : r.covers (r.offset + i) = true := by simp [FieldRow.covers]; omega
  rw [configBit, if_neg (by omega), find_covering hT hr hc]
  simp

/-- The default table is legal (30_encoding.md R52 keeps R51 and overlaps nowhere, R54). -/
theorem fieldTable_legal : Config.fieldTable.legal := by
  refine ⟨?_, ?_, ?_, ?_⟩
  · intro f
    cases f <;> decide
  · decide
  · decide
  · decide

/-- The range checks of the default table, register by register (40_frame_codec.md R62). -/
theorem allInRange_default (s : State) :
    allInRange Config.fieldTable s =
      (inRange s.fields.clkf 6 && (inRange s.fields.clkr 4 && (inRange s.fields.clkod 4 && (inRange s.fields.bwadj 8 &&
        (inRange s.fields.chipX 5 && (inRange s.fields.chipY 5 && (inRange s.fields.delay 10 &&
          (inRange s.fields.width 5 && (inRange s.fields.mask 8 && inRange s.fields.debugMode 1))))))))) := by
  simp [allInRange, Config.fieldTable, FieldRegs.get]

end Sys2Proof.Machine
end

