-- ==== Sys2Proof/Laws/State.lean ====
section
/-!
SUPPORT. One lemma per field of State per named update of Machine/Flags.lean and Machine/Ops.lean, so that no proof unfolds
a record update.
-/

namespace Sys2Proof.Machine

/-! setStatus_tx -/

@[simp] theorem setStatus_tx_txStatus (code : BitVec 2) (s : State) : (setStatus .tx code s).txStatus = code := rfl
@[simp] theorem setStatus_tx_rxStatus (code : BitVec 2) (s : State) : (setStatus .tx code s).rxStatus = s.rxStatus := rfl
@[simp] theorem setStatus_tx_vfStatus (code : BitVec 2) (s : State) : (setStatus .tx code s).vfStatus = s.vfStatus := rfl
@[simp] theorem setStatus_tx_rxLen (code : BitVec 2) (s : State) : (setStatus .tx code s).rxLen = s.rxLen := rfl
@[simp] theorem setStatus_tx_expLen (code : BitVec 2) (s : State) : (setStatus .tx code s).expLen = s.expLen := rfl
@[simp] theorem setStatus_tx_rcvLen (code : BitVec 2) (s : State) : (setStatus .tx code s).rcvLen = s.rcvLen := rfl
@[simp] theorem setStatus_tx_ce (code : BitVec 2) (s : State) : (setStatus .tx code s).ce = s.ce := rfl
@[simp] theorem setStatus_tx_fields (code : BitVec 2) (s : State) : (setStatus .tx code s).fields = s.fields := rfl
@[simp] theorem setStatus_tx_txFrame (code : BitVec 2) (s : State) : (setStatus .tx code s).txFrame = s.txFrame := rfl
@[simp] theorem setStatus_tx_rxBuf (code : BitVec 2) (s : State) : (setStatus .tx code s).rxBuf = s.rxBuf := rfl
@[simp] theorem setStatus_tx_tL5 (code : BitVec 2) (s : State) : (setStatus .tx code s).tL5 = s.tL5 := rfl
@[simp] theorem setStatus_tx_tL4 (code : BitVec 2) (s : State) : (setStatus .tx code s).tL4 = s.tL4 := rfl
@[simp] theorem setStatus_tx_tL3 (code : BitVec 2) (s : State) : (setStatus .tx code s).tL3 = s.tL3 := rfl
@[simp] theorem setStatus_tx_tL2Busy (code : BitVec 2) (s : State) : (setStatus .tx code s).tL2Busy = s.tL2Busy := rfl
@[simp] theorem setStatus_tx_tL2Done (code : BitVec 2) (s : State) : (setStatus .tx code s).tL2Done = s.tL2Done := rfl
@[simp] theorem setStatus_tx_expBuf (code : BitVec 2) (s : State) : (setStatus .tx code s).expBuf = s.expBuf := rfl
@[simp] theorem setStatus_tx_rcvBuf (code : BitVec 2) (s : State) : (setStatus .tx code s).rcvBuf = s.rcvBuf := rfl
@[simp] theorem setStatus_tx_port (code : BitVec 2) (s : State) : (setStatus .tx code s).port = s.port := rfl

/-! raiseError_tx -/

@[simp] theorem raiseError_tx_txStatus (s : State) : (raiseError .tx s).txStatus = codeError := rfl
@[simp] theorem raiseError_tx_rxStatus (s : State) : (raiseError .tx s).rxStatus = s.rxStatus := rfl
@[simp] theorem raiseError_tx_vfStatus (s : State) : (raiseError .tx s).vfStatus = s.vfStatus := rfl
@[simp] theorem raiseError_tx_rxLen (s : State) : (raiseError .tx s).rxLen = s.rxLen := rfl
@[simp] theorem raiseError_tx_expLen (s : State) : (raiseError .tx s).expLen = s.expLen := rfl
@[simp] theorem raiseError_tx_rcvLen (s : State) : (raiseError .tx s).rcvLen = s.rcvLen := rfl
@[simp] theorem raiseError_tx_ce (s : State) : (raiseError .tx s).ce = s.ce := rfl
@[simp] theorem raiseError_tx_fields (s : State) : (raiseError .tx s).fields = s.fields := rfl
@[simp] theorem raiseError_tx_txFrame (s : State) : (raiseError .tx s).txFrame = s.txFrame := rfl
@[simp] theorem raiseError_tx_rxBuf (s : State) : (raiseError .tx s).rxBuf = s.rxBuf := rfl
@[simp] theorem raiseError_tx_tL5 (s : State) : (raiseError .tx s).tL5 = s.tL5 := rfl
@[simp] theorem raiseError_tx_tL4 (s : State) : (raiseError .tx s).tL4 = s.tL4 := rfl
@[simp] theorem raiseError_tx_tL3 (s : State) : (raiseError .tx s).tL3 = s.tL3 := rfl
@[simp] theorem raiseError_tx_tL2Busy (s : State) : (raiseError .tx s).tL2Busy = s.tL2Busy := rfl
@[simp] theorem raiseError_tx_tL2Done (s : State) : (raiseError .tx s).tL2Done = s.tL2Done := rfl
@[simp] theorem raiseError_tx_expBuf (s : State) : (raiseError .tx s).expBuf = s.expBuf := rfl
@[simp] theorem raiseError_tx_rcvBuf (s : State) : (raiseError .tx s).rcvBuf = s.rcvBuf := rfl
@[simp] theorem raiseError_tx_port (s : State) : (raiseError .tx s).port = s.port := rfl

/-! setStatus_rx -/

@[simp] theorem setStatus_rx_txStatus (code : BitVec 2) (s : State) : (setStatus .rx code s).txStatus = s.txStatus := rfl
@[simp] theorem setStatus_rx_rxStatus (code : BitVec 2) (s : State) : (setStatus .rx code s).rxStatus = code := rfl
@[simp] theorem setStatus_rx_vfStatus (code : BitVec 2) (s : State) : (setStatus .rx code s).vfStatus = s.vfStatus := rfl
@[simp] theorem setStatus_rx_rxLen (code : BitVec 2) (s : State) : (setStatus .rx code s).rxLen = s.rxLen := rfl
@[simp] theorem setStatus_rx_expLen (code : BitVec 2) (s : State) : (setStatus .rx code s).expLen = s.expLen := rfl
@[simp] theorem setStatus_rx_rcvLen (code : BitVec 2) (s : State) : (setStatus .rx code s).rcvLen = s.rcvLen := rfl
@[simp] theorem setStatus_rx_ce (code : BitVec 2) (s : State) : (setStatus .rx code s).ce = s.ce := rfl
@[simp] theorem setStatus_rx_fields (code : BitVec 2) (s : State) : (setStatus .rx code s).fields = s.fields := rfl
@[simp] theorem setStatus_rx_txFrame (code : BitVec 2) (s : State) : (setStatus .rx code s).txFrame = s.txFrame := rfl
@[simp] theorem setStatus_rx_rxBuf (code : BitVec 2) (s : State) : (setStatus .rx code s).rxBuf = s.rxBuf := rfl
@[simp] theorem setStatus_rx_tL5 (code : BitVec 2) (s : State) : (setStatus .rx code s).tL5 = s.tL5 := rfl
@[simp] theorem setStatus_rx_tL4 (code : BitVec 2) (s : State) : (setStatus .rx code s).tL4 = s.tL4 := rfl
@[simp] theorem setStatus_rx_tL3 (code : BitVec 2) (s : State) : (setStatus .rx code s).tL3 = s.tL3 := rfl
@[simp] theorem setStatus_rx_tL2Busy (code : BitVec 2) (s : State) : (setStatus .rx code s).tL2Busy = s.tL2Busy := rfl
@[simp] theorem setStatus_rx_tL2Done (code : BitVec 2) (s : State) : (setStatus .rx code s).tL2Done = s.tL2Done := rfl
@[simp] theorem setStatus_rx_expBuf (code : BitVec 2) (s : State) : (setStatus .rx code s).expBuf = s.expBuf := rfl
@[simp] theorem setStatus_rx_rcvBuf (code : BitVec 2) (s : State) : (setStatus .rx code s).rcvBuf = s.rcvBuf := rfl
@[simp] theorem setStatus_rx_port (code : BitVec 2) (s : State) : (setStatus .rx code s).port = s.port := rfl

/-! raiseError_rx -/

@[simp] theorem raiseError_rx_txStatus (s : State) : (raiseError .rx s).txStatus = s.txStatus := rfl
@[simp] theorem raiseError_rx_rxStatus (s : State) : (raiseError .rx s).rxStatus = codeError := rfl
@[simp] theorem raiseError_rx_vfStatus (s : State) : (raiseError .rx s).vfStatus = s.vfStatus := rfl
@[simp] theorem raiseError_rx_rxLen (s : State) : (raiseError .rx s).rxLen = s.rxLen := rfl
@[simp] theorem raiseError_rx_expLen (s : State) : (raiseError .rx s).expLen = s.expLen := rfl
@[simp] theorem raiseError_rx_rcvLen (s : State) : (raiseError .rx s).rcvLen = s.rcvLen := rfl
@[simp] theorem raiseError_rx_ce (s : State) : (raiseError .rx s).ce = s.ce := rfl
@[simp] theorem raiseError_rx_fields (s : State) : (raiseError .rx s).fields = s.fields := rfl
@[simp] theorem raiseError_rx_txFrame (s : State) : (raiseError .rx s).txFrame = s.txFrame := rfl
@[simp] theorem raiseError_rx_rxBuf (s : State) : (raiseError .rx s).rxBuf = s.rxBuf := rfl
@[simp] theorem raiseError_rx_tL5 (s : State) : (raiseError .rx s).tL5 = s.tL5 := rfl
@[simp] theorem raiseError_rx_tL4 (s : State) : (raiseError .rx s).tL4 = s.tL4 := rfl
@[simp] theorem raiseError_rx_tL3 (s : State) : (raiseError .rx s).tL3 = s.tL3 := rfl
@[simp] theorem raiseError_rx_tL2Busy (s : State) : (raiseError .rx s).tL2Busy = s.tL2Busy := rfl
@[simp] theorem raiseError_rx_tL2Done (s : State) : (raiseError .rx s).tL2Done = s.tL2Done := rfl
@[simp] theorem raiseError_rx_expBuf (s : State) : (raiseError .rx s).expBuf = s.expBuf := rfl
@[simp] theorem raiseError_rx_rcvBuf (s : State) : (raiseError .rx s).rcvBuf = s.rcvBuf := rfl
@[simp] theorem raiseError_rx_port (s : State) : (raiseError .rx s).port = s.port := rfl

/-! setStatus_vf -/

@[simp] theorem setStatus_vf_txStatus (code : BitVec 2) (s : State) : (setStatus .vf code s).txStatus = s.txStatus := rfl
@[simp] theorem setStatus_vf_rxStatus (code : BitVec 2) (s : State) : (setStatus .vf code s).rxStatus = s.rxStatus := rfl
@[simp] theorem setStatus_vf_vfStatus (code : BitVec 2) (s : State) : (setStatus .vf code s).vfStatus = code := rfl
@[simp] theorem setStatus_vf_rxLen (code : BitVec 2) (s : State) : (setStatus .vf code s).rxLen = s.rxLen := rfl
@[simp] theorem setStatus_vf_expLen (code : BitVec 2) (s : State) : (setStatus .vf code s).expLen = s.expLen := rfl
@[simp] theorem setStatus_vf_rcvLen (code : BitVec 2) (s : State) : (setStatus .vf code s).rcvLen = s.rcvLen := rfl
@[simp] theorem setStatus_vf_ce (code : BitVec 2) (s : State) : (setStatus .vf code s).ce = s.ce := rfl
@[simp] theorem setStatus_vf_fields (code : BitVec 2) (s : State) : (setStatus .vf code s).fields = s.fields := rfl
@[simp] theorem setStatus_vf_txFrame (code : BitVec 2) (s : State) : (setStatus .vf code s).txFrame = s.txFrame := rfl
@[simp] theorem setStatus_vf_rxBuf (code : BitVec 2) (s : State) : (setStatus .vf code s).rxBuf = s.rxBuf := rfl
@[simp] theorem setStatus_vf_tL5 (code : BitVec 2) (s : State) : (setStatus .vf code s).tL5 = s.tL5 := rfl
@[simp] theorem setStatus_vf_tL4 (code : BitVec 2) (s : State) : (setStatus .vf code s).tL4 = s.tL4 := rfl
@[simp] theorem setStatus_vf_tL3 (code : BitVec 2) (s : State) : (setStatus .vf code s).tL3 = s.tL3 := rfl
@[simp] theorem setStatus_vf_tL2Busy (code : BitVec 2) (s : State) : (setStatus .vf code s).tL2Busy = s.tL2Busy := rfl
@[simp] theorem setStatus_vf_tL2Done (code : BitVec 2) (s : State) : (setStatus .vf code s).tL2Done = s.tL2Done := rfl
@[simp] theorem setStatus_vf_expBuf (code : BitVec 2) (s : State) : (setStatus .vf code s).expBuf = s.expBuf := rfl
@[simp] theorem setStatus_vf_rcvBuf (code : BitVec 2) (s : State) : (setStatus .vf code s).rcvBuf = s.rcvBuf := rfl
@[simp] theorem setStatus_vf_port (code : BitVec 2) (s : State) : (setStatus .vf code s).port = s.port := rfl

/-! raiseError_vf -/

@[simp] theorem raiseError_vf_txStatus (s : State) : (raiseError .vf s).txStatus = s.txStatus := rfl
@[simp] theorem raiseError_vf_rxStatus (s : State) : (raiseError .vf s).rxStatus = s.rxStatus := rfl
@[simp] theorem raiseError_vf_vfStatus (s : State) : (raiseError .vf s).vfStatus = codeError := rfl
@[simp] theorem raiseError_vf_rxLen (s : State) : (raiseError .vf s).rxLen = s.rxLen := rfl
@[simp] theorem raiseError_vf_expLen (s : State) : (raiseError .vf s).expLen = s.expLen := rfl
@[simp] theorem raiseError_vf_rcvLen (s : State) : (raiseError .vf s).rcvLen = s.rcvLen := rfl
@[simp] theorem raiseError_vf_ce (s : State) : (raiseError .vf s).ce = s.ce := rfl
@[simp] theorem raiseError_vf_fields (s : State) : (raiseError .vf s).fields = s.fields := rfl
@[simp] theorem raiseError_vf_txFrame (s : State) : (raiseError .vf s).txFrame = s.txFrame := rfl
@[simp] theorem raiseError_vf_rxBuf (s : State) : (raiseError .vf s).rxBuf = s.rxBuf := rfl
@[simp] theorem raiseError_vf_tL5 (s : State) : (raiseError .vf s).tL5 = s.tL5 := rfl
@[simp] theorem raiseError_vf_tL4 (s : State) : (raiseError .vf s).tL4 = s.tL4 := rfl
@[simp] theorem raiseError_vf_tL3 (s : State) : (raiseError .vf s).tL3 = s.tL3 := rfl
@[simp] theorem raiseError_vf_tL2Busy (s : State) : (raiseError .vf s).tL2Busy = s.tL2Busy := rfl
@[simp] theorem raiseError_vf_tL2Done (s : State) : (raiseError .vf s).tL2Done = s.tL2Done := rfl
@[simp] theorem raiseError_vf_expBuf (s : State) : (raiseError .vf s).expBuf = s.expBuf := rfl
@[simp] theorem raiseError_vf_rcvBuf (s : State) : (raiseError .vf s).rcvBuf = s.rcvBuf := rfl
@[simp] theorem raiseError_vf_port (s : State) : (raiseError .vf s).port = s.port := rfl

/-! loadFrame -/

@[simp] theorem loadFrame_txStatus (frame : Vector Byte 15) (s : State) : (loadFrame frame s).txStatus = s.txStatus := rfl
@[simp] theorem loadFrame_rxStatus (frame : Vector Byte 15) (s : State) : (loadFrame frame s).rxStatus = s.rxStatus := rfl
@[simp] theorem loadFrame_vfStatus (frame : Vector Byte 15) (s : State) : (loadFrame frame s).vfStatus = s.vfStatus := rfl
@[simp] theorem loadFrame_rxLen (frame : Vector Byte 15) (s : State) : (loadFrame frame s).rxLen = s.rxLen := rfl
@[simp] theorem loadFrame_expLen (frame : Vector Byte 15) (s : State) : (loadFrame frame s).expLen = s.expLen := rfl
@[simp] theorem loadFrame_rcvLen (frame : Vector Byte 15) (s : State) : (loadFrame frame s).rcvLen = s.rcvLen := rfl
@[simp] theorem loadFrame_ce (frame : Vector Byte 15) (s : State) : (loadFrame frame s).ce = s.ce := rfl
@[simp] theorem loadFrame_fields (frame : Vector Byte 15) (s : State) : (loadFrame frame s).fields = s.fields := rfl
@[simp] theorem loadFrame_txFrame (frame : Vector Byte 15) (s : State) : (loadFrame frame s).txFrame = frame := rfl
@[simp] theorem loadFrame_rxBuf (frame : Vector Byte 15) (s : State) : (loadFrame frame s).rxBuf = s.rxBuf := rfl
@[simp] theorem loadFrame_tL5 (frame : Vector Byte 15) (s : State) : (loadFrame frame s).tL5 = s.tL5 := rfl
@[simp] theorem loadFrame_tL4 (frame : Vector Byte 15) (s : State) : (loadFrame frame s).tL4 = s.tL4 := rfl
@[simp] theorem loadFrame_tL3 (frame : Vector Byte 15) (s : State) : (loadFrame frame s).tL3 = s.tL3 := rfl
@[simp] theorem loadFrame_tL2Busy (frame : Vector Byte 15) (s : State) : (loadFrame frame s).tL2Busy = s.tL2Busy := rfl
@[simp] theorem loadFrame_tL2Done (frame : Vector Byte 15) (s : State) : (loadFrame frame s).tL2Done = s.tL2Done := rfl
@[simp] theorem loadFrame_expBuf (frame : Vector Byte 15) (s : State) : (loadFrame frame s).expBuf = s.expBuf := rfl
@[simp] theorem loadFrame_rcvBuf (frame : Vector Byte 15) (s : State) : (loadFrame frame s).rcvBuf = s.rcvBuf := rfl
@[simp] theorem loadFrame_port (frame : Vector Byte 15) (s : State) : (loadFrame frame s).port = s.port := rfl

/-! loadTelemetry -/

@[simp] theorem loadTelemetry_txStatus (t : Telemetry) (s : State) : (loadTelemetry t s).txStatus = s.txStatus := rfl
@[simp] theorem loadTelemetry_rxStatus (t : Telemetry) (s : State) : (loadTelemetry t s).rxStatus = s.rxStatus := rfl
@[simp] theorem loadTelemetry_vfStatus (t : Telemetry) (s : State) : (loadTelemetry t s).vfStatus = s.vfStatus := rfl
@[simp] theorem loadTelemetry_rxLen (t : Telemetry) (s : State) : (loadTelemetry t s).rxLen = s.rxLen := rfl
@[simp] theorem loadTelemetry_expLen (t : Telemetry) (s : State) : (loadTelemetry t s).expLen = s.expLen := rfl
@[simp] theorem loadTelemetry_rcvLen (t : Telemetry) (s : State) : (loadTelemetry t s).rcvLen = s.rcvLen := rfl
@[simp] theorem loadTelemetry_ce (t : Telemetry) (s : State) : (loadTelemetry t s).ce = s.ce := rfl
@[simp] theorem loadTelemetry_fields (t : Telemetry) (s : State) : (loadTelemetry t s).fields = s.fields := rfl
@[simp] theorem loadTelemetry_txFrame (t : Telemetry) (s : State) : (loadTelemetry t s).txFrame = s.txFrame := rfl
@[simp] theorem loadTelemetry_rxBuf (t : Telemetry) (s : State) : (loadTelemetry t s).rxBuf = s.rxBuf := rfl
@[simp] theorem loadTelemetry_tL5 (t : Telemetry) (s : State) : (loadTelemetry t s).tL5 = t.l5 := rfl
@[simp] theorem loadTelemetry_tL4 (t : Telemetry) (s : State) : (loadTelemetry t s).tL4 = t.l4 := rfl
@[simp] theorem loadTelemetry_tL3 (t : Telemetry) (s : State) : (loadTelemetry t s).tL3 = t.l3 := rfl
@[simp] theorem loadTelemetry_tL2Busy (t : Telemetry) (s : State) : (loadTelemetry t s).tL2Busy = t.l2Busy := rfl
@[simp] theorem loadTelemetry_tL2Done (t : Telemetry) (s : State) : (loadTelemetry t s).tL2Done = t.l2Done := rfl
@[simp] theorem loadTelemetry_expBuf (t : Telemetry) (s : State) : (loadTelemetry t s).expBuf = s.expBuf := rfl
@[simp] theorem loadTelemetry_rcvBuf (t : Telemetry) (s : State) : (loadTelemetry t s).rcvBuf = s.rcvBuf := rfl
@[simp] theorem loadTelemetry_port (t : Telemetry) (s : State) : (loadTelemetry t s).port = s.port := rfl

/-! withPending -/

@[simp] theorem withPending_txStatus (rest : List Line) (s : State) : (withPending rest s).txStatus = s.txStatus := rfl
@[simp] theorem withPending_rxStatus (rest : List Line) (s : State) : (withPending rest s).rxStatus = s.rxStatus := rfl
@[simp] theorem withPending_vfStatus (rest : List Line) (s : State) : (withPending rest s).vfStatus = s.vfStatus := rfl
@[simp] theorem withPending_rxLen (rest : List Line) (s : State) : (withPending rest s).rxLen = s.rxLen := rfl
@[simp] theorem withPending_expLen (rest : List Line) (s : State) : (withPending rest s).expLen = s.expLen := rfl
@[simp] theorem withPending_rcvLen (rest : List Line) (s : State) : (withPending rest s).rcvLen = s.rcvLen := rfl
@[simp] theorem withPending_ce (rest : List Line) (s : State) : (withPending rest s).ce = s.ce := rfl
@[simp] theorem withPending_fields (rest : List Line) (s : State) : (withPending rest s).fields = s.fields := rfl
@[simp] theorem withPending_txFrame (rest : List Line) (s : State) : (withPending rest s).txFrame = s.txFrame := rfl
@[simp] theorem withPending_rxBuf (rest : List Line) (s : State) : (withPending rest s).rxBuf = s.rxBuf := rfl
@[simp] theorem withPending_tL5 (rest : List Line) (s : State) : (withPending rest s).tL5 = s.tL5 := rfl
@[simp] theorem withPending_tL4 (rest : List Line) (s : State) : (withPending rest s).tL4 = s.tL4 := rfl
@[simp] theorem withPending_tL3 (rest : List Line) (s : State) : (withPending rest s).tL3 = s.tL3 := rfl
@[simp] theorem withPending_tL2Busy (rest : List Line) (s : State) : (withPending rest s).tL2Busy = s.tL2Busy := rfl
@[simp] theorem withPending_tL2Done (rest : List Line) (s : State) : (withPending rest s).tL2Done = s.tL2Done := rfl
@[simp] theorem withPending_expBuf (rest : List Line) (s : State) : (withPending rest s).expBuf = s.expBuf := rfl
@[simp] theorem withPending_rcvBuf (rest : List Line) (s : State) : (withPending rest s).rcvBuf = s.rcvBuf := rfl
@[simp] theorem withPending_port (rest : List Line) (s : State) : (withPending rest s).port = ⟨rest, s.port.replies⟩ := rfl

/-! answer -/

@[simp] theorem answer_txStatus (bind : Option Name) (w : Word) (s : State) : (answer bind w s).txStatus = s.txStatus := rfl
@[simp] theorem answer_rxStatus (bind : Option Name) (w : Word) (s : State) : (answer bind w s).rxStatus = s.rxStatus := rfl
@[simp] theorem answer_vfStatus (bind : Option Name) (w : Word) (s : State) : (answer bind w s).vfStatus = s.vfStatus := rfl
@[simp] theorem answer_rxLen (bind : Option Name) (w : Word) (s : State) : (answer bind w s).rxLen = s.rxLen := rfl
@[simp] theorem answer_expLen (bind : Option Name) (w : Word) (s : State) : (answer bind w s).expLen = s.expLen := rfl
@[simp] theorem answer_rcvLen (bind : Option Name) (w : Word) (s : State) : (answer bind w s).rcvLen = s.rcvLen := rfl
@[simp] theorem answer_ce (bind : Option Name) (w : Word) (s : State) : (answer bind w s).ce = s.ce := rfl
@[simp] theorem answer_fields (bind : Option Name) (w : Word) (s : State) : (answer bind w s).fields = s.fields := rfl
@[simp] theorem answer_txFrame (bind : Option Name) (w : Word) (s : State) : (answer bind w s).txFrame = s.txFrame := rfl
@[simp] theorem answer_rxBuf (bind : Option Name) (w : Word) (s : State) : (answer bind w s).rxBuf = s.rxBuf := rfl
@[simp] theorem answer_tL5 (bind : Option Name) (w : Word) (s : State) : (answer bind w s).tL5 = s.tL5 := rfl
@[simp] theorem answer_tL4 (bind : Option Name) (w : Word) (s : State) : (answer bind w s).tL4 = s.tL4 := rfl
@[simp] theorem answer_tL3 (bind : Option Name) (w : Word) (s : State) : (answer bind w s).tL3 = s.tL3 := rfl
@[simp] theorem answer_tL2Busy (bind : Option Name) (w : Word) (s : State) : (answer bind w s).tL2Busy = s.tL2Busy := rfl
@[simp] theorem answer_tL2Done (bind : Option Name) (w : Word) (s : State) : (answer bind w s).tL2Done = s.tL2Done := rfl
@[simp] theorem answer_expBuf (bind : Option Name) (w : Word) (s : State) : (answer bind w s).expBuf = s.expBuf := rfl
@[simp] theorem answer_rcvBuf (bind : Option Name) (w : Word) (s : State) : (answer bind w s).rcvBuf = s.rcvBuf := rfl
@[simp] theorem answer_port (bind : Option Name) (w : Word) (s : State) : (answer bind w s).port = ⟨s.port.pending, ⟨bind, w⟩ :: s.port.replies⟩ := rfl

/-! resetRegisters -/

@[simp] theorem resetRegisters_txStatus (s : State) : (resetRegisters s).txStatus = State.reset.txStatus := rfl
@[simp] theorem resetRegisters_rxStatus (s : State) : (resetRegisters s).rxStatus = State.reset.rxStatus := rfl
@[simp] theorem resetRegisters_vfStatus (s : State) : (resetRegisters s).vfStatus = State.reset.vfStatus := rfl
@[simp] theorem resetRegisters_rxLen (s : State) : (resetRegisters s).rxLen = State.reset.rxLen := rfl
@[simp] theorem resetRegisters_expLen (s : State) : (resetRegisters s).expLen = State.reset.expLen := rfl
@[simp] theorem resetRegisters_rcvLen (s : State) : (resetRegisters s).rcvLen = State.reset.rcvLen := rfl
@[simp] theorem resetRegisters_ce (s : State) : (resetRegisters s).ce = State.reset.ce := rfl
@[simp] theorem resetRegisters_fields (s : State) : (resetRegisters s).fields = State.reset.fields := rfl
@[simp] theorem resetRegisters_txFrame (s : State) : (resetRegisters s).txFrame = State.reset.txFrame := rfl
@[simp] theorem resetRegisters_rxBuf (s : State) : (resetRegisters s).rxBuf = State.reset.rxBuf := rfl
@[simp] theorem resetRegisters_tL5 (s : State) : (resetRegisters s).tL5 = State.reset.tL5 := rfl
@[simp] theorem resetRegisters_tL4 (s : State) : (resetRegisters s).tL4 = State.reset.tL4 := rfl
@[simp] theorem resetRegisters_tL3 (s : State) : (resetRegisters s).tL3 = State.reset.tL3 := rfl
@[simp] theorem resetRegisters_tL2Busy (s : State) : (resetRegisters s).tL2Busy = State.reset.tL2Busy := rfl
@[simp] theorem resetRegisters_tL2Done (s : State) : (resetRegisters s).tL2Done = State.reset.tL2Done := rfl
@[simp] theorem resetRegisters_expBuf (s : State) : (resetRegisters s).expBuf = State.reset.expBuf := rfl
@[simp] theorem resetRegisters_rcvBuf (s : State) : (resetRegisters s).rcvBuf = State.reset.rcvBuf := rfl
@[simp] theorem resetRegisters_port (s : State) : (resetRegisters s).port = s.port := rfl

/-! statusOf -/

@[simp] theorem statusOf_tx (s : State) : statusOf .tx s = s.txStatus := rfl
@[simp] theorem statusOf_rx (s : State) : statusOf .rx s = s.rxStatus := rfl
@[simp] theorem statusOf_vf (s : State) : statusOf .vf s = s.vfStatus := rfl

/-! writeReg: the registers the host writes -/

@[simp] theorem writeReg_rxLen_eq (d : Word) (s : State) :
    writeReg .rxLen d s = { s with rxLen := clampLen 5 Config.rxCap d } := rfl
@[simp] theorem writeReg_expLen_eq (d : Word) (s : State) :
    writeReg .expLen d s = { s with expLen := clampLen 7 Config.vmax d } := rfl
@[simp] theorem writeReg_rcvLen_eq (d : Word) (s : State) :
    writeReg .rcvLen d s = { s with rcvLen := clampLen 7 Config.vmax d } := rfl
@[simp] theorem writeReg_ce_eq (k : Fin 8) (d : Word) (s : State) :
    writeReg (.ce k) d s = { s with ce := s.ce.set k.val (lowByte d) k.isLt } := rfl
@[simp] theorem writeReg_field_eq (f : Field) (d : Word) (s : State) :
    writeReg (.field f) d s = { s with fields := s.fields.set f d } := rfl
@[simp] theorem writeReg_rxBuf_eq (k : Fin 19) (d : Word) (s : State) :
    writeReg (.rxBuf k) d s = { s with rxBuf := s.rxBuf.set k.val (lowByte d) k.isLt } := rfl
theorem writeReg_expBuf_eq (i : Fin 64) (d : Word) (s : State) :
    writeReg (.expBuf i) d s =
      if placeExists i then { s with expBuf := s.expBuf.set i.val (lowByte d) i.isLt } else s := rfl
theorem writeReg_rcvBuf_eq (i : Fin 64) (d : Word) (s : State) :
    writeReg (.rcvBuf i) d s =
      if placeExists i then { s with rcvBuf := s.rcvBuf.set i.val (lowByte d) i.isLt } else s := rfl

/-! writeReg: no write reaches an output register or the port (20_memory.md R31) -/

@[simp] theorem writeReg_txStatus (r : Reg) (d : Word) (s : State) : (writeReg r d s).txStatus = s.txStatus := by
  cases r <;> simp only [writeReg] <;> split <;> rfl
@[simp] theorem writeReg_rxStatus (r : Reg) (d : Word) (s : State) : (writeReg r d s).rxStatus = s.rxStatus := by
  cases r <;> simp only [writeReg] <;> split <;> rfl
@[simp] theorem writeReg_vfStatus (r : Reg) (d : Word) (s : State) : (writeReg r d s).vfStatus = s.vfStatus := by
  cases r <;> simp only [writeReg] <;> split <;> rfl
@[simp] theorem writeReg_txFrame (r : Reg) (d : Word) (s : State) : (writeReg r d s).txFrame = s.txFrame := by
  cases r <;> simp only [writeReg] <;> split <;> rfl
@[simp] theorem writeReg_tL5 (r : Reg) (d : Word) (s : State) : (writeReg r d s).tL5 = s.tL5 := by
  cases r <;> simp only [writeReg] <;> split <;> rfl
@[simp] theorem writeReg_tL4 (r : Reg) (d : Word) (s : State) : (writeReg r d s).tL4 = s.tL4 := by
  cases r <;> simp only [writeReg] <;> split <;> rfl
@[simp] theorem writeReg_tL3 (r : Reg) (d : Word) (s : State) : (writeReg r d s).tL3 = s.tL3 := by
  cases r <;> simp only [writeReg] <;> split <;> rfl
@[simp] theorem writeReg_tL2Busy (r : Reg) (d : Word) (s : State) : (writeReg r d s).tL2Busy = s.tL2Busy := by
  cases r <;> simp only [writeReg] <;> split <;> rfl
@[simp] theorem writeReg_tL2Done (r : Reg) (d : Word) (s : State) : (writeReg r d s).tL2Done = s.tL2Done := by
  cases r <;> simp only [writeReg] <;> split <;> rfl
@[simp] theorem writeReg_port (r : Reg) (d : Word) (s : State) : (writeReg r d s).port = s.port := by
  cases r <;> simp only [writeReg] <;> split <;> rfl

/-! FieldRegs: the ten registers are separate -/

@[simp] theorem FieldRegs.get_set_self (r : FieldRegs) (f : Field) (v : Word) : (r.set f v).get f = v := by
  cases f <;> rfl

theorem FieldRegs.get_set_ne (r : FieldRegs) {f g : Field} (v : Word) (h : g ≠ f) : (r.set f v).get g = r.get g := by
  cases f <;> cases g <;> first | rfl | exact absurd rfl h

/-- Two sets of field registers that agree on every field are the same. -/
theorem FieldRegs.ext_get {r q : FieldRegs} (h : ∀ f, r.get f = q.get f) : r = q := by
  cases r
  cases q
  simpa [FieldRegs.get] using
    (⟨h .clkf, h .clkr, h .clkod, h .bwadj, h .chipX, h .chipY, h .delay, h .width, h .mask, h .debugMode⟩ :
      _ ∧ _ ∧ _ ∧ _ ∧ _ ∧ _ ∧ _ ∧ _ ∧ _ ∧ _)

end Sys2Proof.Machine
end

