-- ==== Sys2Proof/Laws/Ops.lean ====
section
/-!
SUPPORT. One lemma per shared operation of Machine/Operands.lean and Machine/Ops.lean: range checks, length clamps, byte
writes, buffer places on either side of VMAX, and the comparison of the verifier's buffers.
-/

namespace Sys2Proof.Machine

/-- A value in range has no bit at or above the field's width (40_frame_codec.md R62). -/
theorem getLsbD_eq_false_of_inRange {v : Word} {w j : Nat} (h : v.toNat < 2 ^ w) (hj : w ≤ j) : v.getLsbD j = false :=
  Nat.testBit_eq_false_of_lt (Nat.lt_of_lt_of_le h (Nat.pow_le_pow_right (by decide) hj))

/-- A length register holds the clamped value itself (20_memory.md R36). -/
theorem clampLen_toNat {w cap : Nat} (h : cap < 2 ^ w) (d : Word) : (clampLen w cap d).toNat = min d.toNat cap := by
  rw [clampLen, BitVec.toNat_ofNat, Nat.mod_eq_of_lt]
  omega

/-- A byte written as a word is that byte (20_memory.md R35). -/
@[simp] theorem lowByte_setWidth (b : Byte) : lowByte (b.setWidth 16) = b := by
  apply BitVec.eq_of_getLsbD_eq
  intro i hi
  simp [lowByte, hi]

/-- A byte register reads back d[7:0], zero-extended (20_memory.md R32, R35). -/
theorem setWidth_lowByte (d : Word) : (lowByte d).setWidth 16 = d &&& 0x00FF#16 := by
  apply BitVec.eq_of_getLsbD_eq
  intro i hi
  interval_cases i <;> simp [lowByte]

/-! Buffer places below VMAX are registers, those beyond are reserved (20_memory.md R34). -/

theorem writeReg_expBuf_of_lt {i : Fin 64} (h : i.val < Config.vmax) (d : Word) (s : State) :
    writeReg (.expBuf i) d s = { s with expBuf := s.expBuf.set i.val (lowByte d) i.isLt } := by
  rw [writeReg_expBuf_eq, if_pos (by simpa [placeExists] using h)]

theorem writeReg_rcvBuf_of_lt {i : Fin 64} (h : i.val < Config.vmax) (d : Word) (s : State) :
    writeReg (.rcvBuf i) d s = { s with rcvBuf := s.rcvBuf.set i.val (lowByte d) i.isLt } := by
  rw [writeReg_rcvBuf_eq, if_pos (by simpa [placeExists] using h)]

theorem writeReg_expBuf_of_ge {i : Fin 64} (h : Config.vmax ≤ i.val) (d : Word) (s : State) :
    writeReg (.expBuf i) d s = s := by
  rw [writeReg_expBuf_eq, if_neg (by simpa [placeExists] using h)]

theorem writeReg_rcvBuf_of_ge {i : Fin 64} (h : Config.vmax ≤ i.val) (d : Word) (s : State) :
    writeReg (.rcvBuf i) d s = s := by
  rw [writeReg_rcvBuf_eq, if_neg (by simpa [placeExists] using h)]

theorem readReg_expBuf_of_lt {i : Fin 64} (h : i.val < Config.vmax) (s : State) :
    readReg (.expBuf i) s = (s.expBuf[i.val]).setWidth 16 := by
  rw [readReg, if_pos (by simpa [placeExists] using h)]

theorem readReg_rcvBuf_of_lt {i : Fin 64} (h : i.val < Config.vmax) (s : State) :
    readReg (.rcvBuf i) s = (s.rcvBuf[i.val]).setWidth 16 := by
  rw [readReg, if_pos (by simpa [placeExists] using h)]

theorem readReg_expBuf_of_ge {i : Fin 64} (h : Config.vmax ≤ i.val) (s : State) : readReg (.expBuf i) s = 0x0000#16 := by
  rw [readReg, if_neg (by simpa [placeExists] using h)]

theorem readReg_rcvBuf_of_ge {i : Fin 64} (h : Config.vmax ≤ i.val) (s : State) : readReg (.rcvBuf i) s = 0x0000#16 := by
  rw [readReg, if_neg (by simpa [placeExists] using h)]

/-- The comparison of the first n bytes, byte by byte (41_echo_verifier.md R69). -/
theorem sameBytes_iff {e r : Vector Byte 64} {n : Nat} (h : n ≤ 64) :
    sameBytes e r n = true ↔ ∀ i : Fin 64, i.val < n → e[i.val] = r[i.val] := by
  simp only [sameBytes, List.all_eq_true, List.mem_range, beq_iff_eq]
  constructor
  · intro hs i hi
    have := hs i.val hi
    rwa [byteAt_of_lt _ i.isLt, byteAt_of_lt _ i.isLt] at this
  · intro hs i hi
    rw [byteAt_of_lt _ (by omega), byteAt_of_lt _ (by omega)]
    exact hs ⟨i, by omega⟩ hi

end Sys2Proof.Machine
end

