-- ==== Sys2Proof/Laws/PerInstr.lean ====
section
/-!
SUPPORT. One lemma per constructor of Instr for the family EncodedOp: an instruction is well formed and its command word
carries its own OP code in bits [1:0] and its ignored bits above (30_encoding.md R46, R47).
-/

namespace Sys2Proof.Laws.EncodedOp

/-- The OP code of an operation (30_encoding.md R47). -/
def opCode : Instr → BitVec 2
  | .nop _ => 0b00#2
  | .pack _ => 0b01#2
  | .unpack _ => 0b10#2
  | .verify _ => 0b11#2

/-- The ignored bits an instruction carries (30_encoding.md R46). -/
def ignoredBits : Instr → BitVec 14
  | .nop g => g
  | .pack g => g
  | .unpack g => g
  | .verify g => g

def Statement (i : Instr) : Prop :=
  i.wellFormed = true ∧ opOf (encode i) = opCode i ∧ ignoredOf (encode i) = ignoredBits i

/-- The two fields of a command word, taken apart again. -/
theorem fields_of_append (g : BitVec 14) (op : BitVec 2) : opOf (g ++ op) = op ∧ ignoredOf (g ++ op) = g := by
  constructor
  · ext i hi
    simp only [opOf, BitVec.getElem_extractLsb']
    rw [BitVec.getLsbD_append]
    simp [hi, BitVec.getLsbD_eq_getElem]
  · ext i hi
    simp only [ignoredOf, BitVec.getElem_extractLsb']
    rw [BitVec.getLsbD_append]
    have h2 : ¬ 2 + i < 2 := by omega
    simp [h2, hi, BitVec.getLsbD_eq_getElem]

theorem nop (g : BitVec 14) : Statement (.nop g) := ⟨rfl, fields_of_append g _⟩

theorem pack (g : BitVec 14) : Statement (.pack g) := ⟨rfl, fields_of_append g _⟩

theorem unpack (g : BitVec 14) : Statement (.unpack g) := ⟨rfl, fields_of_append g _⟩

theorem verify (g : BitVec 14) : Statement (.verify g) := ⟨rfl, fields_of_append g _⟩

end Sys2Proof.Laws.EncodedOp
end

