-- ==== Sys2Proof/Laws/Step.lean ====
section
/-!
SUPPORT. What an operation, a transaction and a step can do, said once: if it answers a next state, then one of these cases
holds. Later proofs cite these and unfold neither `exec` nor `step`.
-/

namespace Sys2Proof.Machine

/-! The four meanings, one equation each. -/

@[simp] theorem exec_nop (g : BitVec 14) (s : State) : exec (.nop g) s = .next s := rfl

@[simp] theorem exec_pack (g : BitVec 14) (s : State) : exec (.pack g) s = .next (packWith Config.fieldTable s) := rfl

theorem packWith_of_inRange {T : FieldTable} {s : State} (h : allInRange T s = true) :
    packWith T s = setStatus .tx codeOk (loadFrame (configFrame T s) s) := by
  rw [packWith, if_pos h]

theorem packWith_of_outOfRange {T : FieldTable} {s : State} (h : allInRange T s = false) :
    packWith T s = raiseError .tx s := by
  rw [packWith, if_neg (by simp [h])]

theorem exec_unpack_short (g : BitVec 14) {s : State} (h : s.rxLen.toNat < 19) :
    exec (.unpack g) s = .next (raiseError .rx s) := by
  simp [exec, execUnpack, Config.telemFrameLen, h]

theorem exec_unpack_full (g : BitVec 14) {s : State} (h : 19 ≤ s.rxLen.toNat) :
    exec (.unpack g) s = .next (setStatus .rx codeOk (loadTelemetry (telemetryOf s.rxBuf) s)) := by
  simp [exec, execUnpack, Config.telemFrameLen, Nat.not_lt.mpr h]

@[simp] theorem exec_verify (g : BitVec 14) (s : State) :
    exec (.verify g) s = .next (setStatus .vf (if echoMatches s then codeOk else codeError) s) := rfl

/-- Everything an operation can do. -/
theorem exec_cases {i : Instr} {s t : State} (h : exec i s = .next t) :
    (∃ g, i = .nop g ∧ t = s) ∨
    (∃ g, i = .pack g ∧ allInRange Config.fieldTable s = true ∧
      t = setStatus .tx codeOk (loadFrame (configFrame Config.fieldTable s) s)) ∨
    (∃ g, i = .pack g ∧ allInRange Config.fieldTable s = false ∧ t = raiseError .tx s) ∨
    (∃ g, i = .unpack g ∧ 19 ≤ s.rxLen.toNat ∧ t = setStatus .rx codeOk (loadTelemetry (telemetryOf s.rxBuf) s)) ∨
    (∃ g, i = .unpack g ∧ s.rxLen.toNat < 19 ∧ t = raiseError .rx s) ∨
    (∃ g, i = .verify g ∧ echoMatches s = true ∧ t = setStatus .vf codeOk s) ∨
    (∃ g, i = .verify g ∧ echoMatches s = false ∧ t = setStatus .vf codeError s) := by
  cases i with
  | nop g =>
    cases h
    exact .inl ⟨g, rfl, rfl⟩
  | pack g =>
    rw [exec_pack] at h
    cases h
    cases hr : allInRange Config.fieldTable s with
    | true => exact .inr (.inl ⟨g, rfl, rfl, packWith_of_inRange hr⟩)
    | false => exact .inr (.inr (.inl ⟨g, rfl, rfl, packWith_of_outOfRange hr⟩))
  | unpack g =>
    rcases Nat.lt_or_ge s.rxLen.toNat 19 with hl | hl
    · rw [exec_unpack_short g hl] at h
      cases h
      exact .inr (.inr (.inr (.inr (.inl ⟨g, rfl, hl, rfl⟩))))
    · rw [exec_unpack_full g hl] at h
      cases h
      exact .inr (.inr (.inr (.inl ⟨g, rfl, hl, rfl⟩)))
  | verify g =>
    rw [exec_verify] at h
    cases h
    cases he : echoMatches s with
    | true => exact .inr (.inr (.inr (.inr (.inr (.inl ⟨g, rfl, rfl, rfl⟩)))))
    | false => exact .inr (.inr (.inr (.inr (.inr (.inr ⟨g, rfl, rfl, rfl⟩)))))

/-- No operation stops: each answers a next state in every state. -/
theorem exec_total (i : Instr) (s : State) : ∃ t, exec i s = .next t := by
  cases i with
  | nop g => exact ⟨_, rfl⟩
  | pack g => exact ⟨_, rfl⟩
  | unpack g => exact ⟨_, rfl⟩
  | verify g => exact ⟨_, rfl⟩

/-- A write always completes (20_memory.md R31). -/
theorem hostWrite_total (a : Addr) (d : Word) (s : State) : ∃ t, hostWrite a d s = .next t := by
  by_cases h : a = 0x00#8
  · subst h
    rw [hostWrite_cmd]
    exact exec_total _ _
  · exact ⟨_, hostWrite_of_ne h d s⟩

/-- Which read stops: only one of a status register that holds the reserved code. -/
theorem reservedCodeAt_eq_some {a : Addr} {s : State} {c : Channel} (h : reservedCodeAt a s = some c) :
    regAt a = .status c ∧ statusOf c s = codeReserved := by
  unfold reservedCodeAt at h
  split at h
  · split at h
    · cases h
      exact ⟨‹_›, ‹_›⟩
    · cases h
  · cases h

/-- Everything a line can do when it answers a next state. -/
theorem runLine_cases {l : Line} {s t : State} (h : runLine l s = .next t) :
    (∃ a d w, l = .write a d ∧ datumWord d s = .ok w ∧ hostWrite a w s = .next t) ∨
    (∃ a b, l = .read a b ∧ reservedCodeAt a s = none ∧ t = answer b (hostRead a s) s) ∨
    (l = .reset ∧ t = resetRegisters s) := by
  cases l with
  | write a d =>
    rw [runLine] at h
    split at h
    · exact .inl ⟨a, d, _, rfl, ‹_›, h⟩
    · cases h
  | read a b =>
    rw [runLine, transact] at h
    split at h
    · cases h
    · cases h
      exact .inr (.inl ⟨a, b, rfl, ‹_›, rfl⟩)
  | reset =>
    cases h
    exact .inr (.inr ⟨rfl, rfl⟩)

/-- Everything a step can do when it answers a next state. -/
theorem step_cases {s t : State} (h : step s = .next t) :
    (s.port.pending = [] ∧ t = s) ∨
    (∃ l rest, s.port.pending = l :: rest ∧ runLine l (withPending rest s) = .next t) := by
  rw [step, nextLine] at h
  split at h
  · cases h
    exact .inl ⟨‹_›, rfl⟩
  · exact .inr ⟨_, _, ‹_›, h⟩

/-- A data operand's word does not depend on what is still pending. -/
@[simp] theorem datumWord_withPending (d : Datum) (rest : List Line) (s : State) :
    datumWord d (withPending rest s) = datumWord d s := by
  cases d <;> rfl

/-- A read of a register sees nothing of the port. -/
@[simp] theorem hostRead_withPending (a : Addr) (rest : List Line) (s : State) :
    hostRead a (withPending rest s) = hostRead a s := by
  unfold hostRead
  cases regAt a with
  | status c => cases c <;> rfl
  | _ => rfl

@[simp] theorem hostRead_answer (a : Addr) (b : Option Name) (w : Word) (s : State) :
    hostRead a (answer b w s) = hostRead a s := by
  unfold hostRead
  cases regAt a with
  | status c => cases c <;> rfl
  | _ => rfl

/-- A step with a pending line runs that line. -/
theorem step_cons {s : State} {l : Line} {rest : List Line} (h : s.port.pending = l :: rest) :
    step s = runLine l (withPending rest s) := by
  simp [step, nextLine, h]

/-- A read of anything but a status register holding code 3 goes on. -/
theorem reservedCodeAt_eq_none {a : Addr} {s : State} (h : ∀ c, regAt a = .status c → statusOf c s ≠ codeReserved) :
    reservedCodeAt a s = none := by
  cases hr : reservedCodeAt a s with
  | none => rfl
  | some c =>
    obtain ⟨h1, h2⟩ := reservedCodeAt_eq_some hr
    exact absurd h2 (h c h1)

@[simp] theorem reservedCodeAt_withPending (a : Addr) (rest : List Line) (s : State) :
    reservedCodeAt a (withPending rest s) = reservedCodeAt a s := by
  unfold reservedCodeAt
  cases regAt a with
  | status c => cases c <;> rfl
  | _ => rfl

@[simp] theorem withPending_withPending (p q : List Line) (s : State) :
    withPending p (withPending q s) = withPending p s := rfl

theorem writeReg_withPending (r : Reg) (d : Word) (p : List Line) (s : State) :
    writeReg r d (withPending p s) = withPending p (writeReg r d s) := by
  cases r with
  | expBuf i =>
    rw [writeReg_expBuf_eq, writeReg_expBuf_eq]
    split <;> rfl
  | rcvBuf i =>
    rw [writeReg_rcvBuf_eq, writeReg_rcvBuf_eq]
    split <;> rfl
  | _ => rfl

/-- An operation neither sees nor changes what the host has pending. -/
theorem exec_withPending {i : Instr} {s t : State} (h : exec i s = .next t) (p : List Line) :
    exec i (withPending p s) = .next (withPending p t) := by
  rcases exec_cases h with ⟨_, rfl, rfl⟩ | ⟨_, rfl, hr, rfl⟩ | ⟨_, rfl, hr, rfl⟩ | ⟨_, rfl, hr, rfl⟩ | ⟨_, rfl, hr, rfl⟩ |
    ⟨_, rfl, hr, rfl⟩ | ⟨_, rfl, hr, rfl⟩
  · rfl
  · rw [exec_pack, packWith_of_inRange (by exact hr)]
    rfl
  · rw [exec_pack, packWith_of_outOfRange (by exact hr)]
    rfl
  · rw [exec_unpack_full _ (by exact hr)]
    rfl
  · rw [exec_unpack_short _ (by exact hr)]
    rfl
  · rw [exec_verify, if_pos (by exact hr)]
    rfl
  · have he : echoMatches (withPending p s) = false := hr
    rw [exec_verify, he]
    rfl

/-- A line neither sees nor changes what the host has pending after it. -/
theorem runLine_withPending {l : Line} {s t : State} (h : runLine l s = .next t) (p : List Line) :
    runLine l (withPending p s) = .next (withPending p t) := by
  rcases runLine_cases h with ⟨a, d, w, rfl, hd, hw⟩ | ⟨a, b, rfl, hn, rfl⟩ | ⟨rfl, rfl⟩
  · rw [runLine, datumWord_withPending, hd]
    show hostWrite a w _ = _
    by_cases ha : a = 0x00#8
    · subst ha
      rw [hostWrite_cmd] at hw ⊢
      exact exec_withPending hw p
    · rw [hostWrite_of_ne ha] at hw ⊢
      cases hw
      rw [writeReg_withPending]
  · rw [runLine, transact, reservedCodeAt_withPending, hn]
    simp only [hostRead_withPending]
    rfl
  · rfl

/-- One step of a run, for any machine of the host's interface. -/
theorem run_of_step (M : Host.Core) (k : Nat) {s t : M.State} (h : M.step s = .next t) : M.run (k + 1) s = M.run k t := by
  have hs : M.run (k + 1) s = match M.step s with
      | .next u => M.run k u
      | .fault r => .fault r
      | .refused r => .refused r := rfl
  rw [hs, h]

/-- One step of a run of this block. -/
theorem core_run_of_step (k : Nat) {s t : State} (h : step s = .next t) :
    Host.Core.run Sys2Proof.core (k + 1) s = Host.Core.run Sys2Proof.core k t :=
  run_of_step Sys2Proof.core k h

end Sys2Proof.Machine
end

