-- ==== Sys2Proof/Laws/Session.lean ====
section
/-!
SUPPORT. Running the lines of a host program (30_encoding.md R59, R60): one list after another, and one written line; how a session starts and
what it can answer (60_exceptions.md R80, R81).
-/

namespace Sys2Proof.Machine

/-- Lines after lines. -/
theorem runLines_append {a b : List Line} {s t : State} (h : runLines a s = .next t) :
    runLines (a ++ b) s = runLines b t := by
  induction a generalizing s with
  | nil =>
    cases h
    rfl
  | cons l a ih =>
    rw [runLines] at h
    rw [List.cons_append, runLines]
    split at h
    · exact ih h
    · cases h
    · cases h

/-- Writing a number to a register other than CMD. -/
theorem runLine_wr {n : Nat} {r : Reg} (h : regAt (BitVec.ofNat 8 n) = r) (hr : r ≠ .cmd) (d : Word) (s : State) :
    runLine (wr n (.lit d)) s = .next (writeReg r d s) := by
  have hn : BitVec.ofNat 8 n ≠ 0x00#8 := by
    intro h0
    rw [h0, regAt_zero] at h
    exact hr h.symm
  have hw := hostWrite_of_ne hn d s
  rw [h] at hw
  exact hw

/-- Writing a command word. -/
theorem runLine_cmd (d : Nat) (s : State) : runLine (wrLit 0 d) s = exec (decode (BitVec.ofNat 16 d)) s :=
  hostWrite_cmd _ s

@[simp] theorem packSucceeded_answer (b : Option Name) (w : Word) (s : State) :
    packSucceeded (answer b w s) = (w == 0x0001#16) := rfl

/-- The start of a session is a PACK and the host's read of its status. -/
theorem runLines_sessionStart (s : State) :
    runLines (expandAll sessionStart) s =
      .next (answer none ((packWith Config.fieldTable s).txStatus.setWidth 16) (packWith Config.fieldTable s)) := by
  have hp : runLine (wrLit 0 1) s = .next (packWith Config.fieldTable s) := runLine_cmd 1 s
  have hc : reservedCodeAt 0x01#8 (packWith Config.fieldTable s) = none := by
    refine reservedCodeAt_eq_none (fun c h => ?_)
    have ht : regAt 0x01#8 = .status .tx := by decide
    cases ht.symm.trans h
    unfold packWith
    split <;> simp [statusOf, raiseError, setStatus, codeOk, codeError, codeReserved]
  have hr : runLine (.read 0x01#8 none) (packWith Config.fieldTable s) =
      .next (answer none ((packWith Config.fieldTable s).txStatus.setWidth 16) (packWith Config.fieldTable s)) := by
    rw [runLine, transact, hc]
    rfl
  show runLines [wrLit 0 1, .read 0x01#8 none] s = _
  simp only [runLines, hp, hr]

/-- Everything a session can answer: it ends after a failed PACK without an outcome, or all its rounds run. -/
theorem runSession_cases {rounds : List (List Byte)} {s t : State} {o : Option SessionOutcome}
    (h : runSession rounds s = .next (t, o)) :
    (o = none ∧ packSucceeded t = false ∧ runLines (expandAll sessionStart) s = .next t) ∨
    (∃ u, o = some (sessionOutcome rounds.length t) ∧ packSucceeded u = true ∧
      runLines (expandAll sessionStart) s = .next u ∧ runLines (expandAll (sessionRounds rounds)) u = .next t) := by
  rw [runSession, runLines_sessionStart] at h
  rw [runLines_sessionStart]
  simp only at h
  split at h
  · next hv =>
    split at h
    · cases h
    · cases h
    · next hr =>
      cases h
      exact .inr ⟨_, rfl, hv, rfl, hr⟩
  · next hv =>
    cases h
    exact .inl ⟨rfl, by simpa using hv, rfl⟩

end Sys2Proof.Machine
end

