-- ==== Sys2Proof/Laws/Telemetry.lean ====
section
/-!
SUPPORT. The bits of joined bytes, and of the telemetry record UNPACK makes (40_frame_codec.md R65), as bits of RX_BUF's
stream (30_encoding.md R55).
-/

namespace Sys2Proof.Machine

/-- Bit 15 - i of two joined bytes is bit i of their stream. -/
theorem join2_getLsbD (a b : Byte) (i : Nat) :
    (a ++ b : BitVec 16).getLsbD i = if i < 8 then b.getLsbD i else a.getLsbD (i - 8) :=
  BitVec.getLsbD_append

/-- One byte joined below `n` bits. -/
theorem join_getLsbD {n : Nat} (a : BitVec n) (b : Byte) (i : Nat) :
    (a ++ b : BitVec (n + 8)).getLsbD i = if i < 8 then b.getLsbD i else a.getLsbD (i - 8) :=
  BitVec.getLsbD_append

/-- The bits of eight joined bytes, the first most significant. -/
theorem join8_getLsbD (b0 b1 b2 b3 b4 b5 b6 b7 : Byte) (i : Nat) :
    (b0 ++ b1 ++ b2 ++ b3 ++ b4 ++ b5 ++ b6 ++ b7 : BitVec 64).getLsbD i =
      if i < 8 then b7.getLsbD i else if i - 8 < 8 then b6.getLsbD (i - 8)
      else if i - 8 - 8 < 8 then b5.getLsbD (i - 8 - 8) else if i - 8 - 8 - 8 < 8 then b4.getLsbD (i - 8 - 8 - 8)
      else if i - 8 - 8 - 8 - 8 < 8 then b3.getLsbD (i - 8 - 8 - 8 - 8)
      else if i - 8 - 8 - 8 - 8 - 8 < 8 then b2.getLsbD (i - 8 - 8 - 8 - 8 - 8)
      else if i - 8 - 8 - 8 - 8 - 8 - 8 < 8 then b1.getLsbD (i - 8 - 8 - 8 - 8 - 8 - 8)
      else b0.getLsbD (i - 8 - 8 - 8 - 8 - 8 - 8 - 8) := by
  simp only [← join_getLsbD]

/-- Bit 63 - i of eight joined bytes is bit i of their stream. -/
theorem join8_stream (b : Vector Byte 8) {i : Nat} (h : i < 64) :
    (b[0] ++ b[1] ++ b[2] ++ b[3] ++ b[4] ++ b[5] ++ b[6] ++ b[7] : BitVec 64).getLsbD (63 - i) = streamBit b i := by
  rw [join8_getLsbD]
  interval_cases i <;> simp [streamBit]

/-- T_L5 is stream bit 0 (30_encoding.md R55). -/
theorem telemetry_l5 (b : Vector Byte 19) : (telemetryOf b).l5.getLsbD 0 = streamBit b 0 := by
  simp [telemetryOf, streamBit]

/-- Bit 3 - i of T_L4 is stream bit 1 + i (30_encoding.md R55). -/
theorem telemetry_l4 (b : Vector Byte 19) {i : Nat} (h : i < 4) :
    (telemetryOf b).l4.getLsbD (3 - i) = streamBit b (1 + i) := by
  interval_cases i <;> simp [telemetryOf, streamBit]

/-- Bit 15 - i of T_L3 is stream bit 8 + i (30_encoding.md R55). -/
theorem telemetry_l3 (b : Vector Byte 19) {i : Nat} (h : i < 16) :
    (telemetryOf b).l3.getLsbD (15 - i) = streamBit b (8 + i) := by
  have hb := join2_getLsbD b[1] b[2] (15 - i)
  rw [telemetryOf, hb]
  interval_cases i <;> simp [streamBit]

/-- Bit 63 - i of T_L2BUSY is stream bit 24 + i (30_encoding.md R55). -/
theorem telemetry_l2Busy (b : Vector Byte 19) {i : Nat} (h : i < 64) :
    (telemetryOf b).l2Busy.getLsbD (63 - i) = streamBit b (24 + i) := by
  refine (join8_stream #v[b[3], b[4], b[5], b[6], b[7], b[8], b[9], b[10]] h).trans ?_
  rw [streamBit, streamBit, byteAt_of_lt _ (by omega), byteAt_of_lt _ (by omega)]
  interval_cases i <;> rfl

/-- Bit 63 - i of T_L2DONE is stream bit 88 + i (30_encoding.md R55). -/
theorem telemetry_l2Done (b : Vector Byte 19) {i : Nat} (h : i < 64) :
    (telemetryOf b).l2Done.getLsbD (63 - i) = streamBit b (88 + i) := by
  refine (join8_stream #v[b[11], b[12], b[13], b[14], b[15], b[16], b[17], b[18]] h).trans ?_
  rw [streamBit, streamBit, byteAt_of_lt _ (by omega), byteAt_of_lt _ (by omega)]
  interval_cases i <;> rfl

end Sys2Proof.Machine
end

