-- ==== Sys2Proof/Machine/Assembler.lean ====
section
/-!
DEFINITION. Reading a program's text (30_encoding.md R59, R60): one line at a time, a comment from `;` to the end of the line,
numbers decimal or 0x-prefixed hexadecimal, register names standing for addresses. What R59 leaves to a reader of text
(white space, the letters of a name) is fixed in log 13. Nothing in the machine depends on this file.
-/

namespace Sys2Proof.Machine.Assembler

/-- White space and the comma stand between the words of a line (log 13). -/
def isSeparator (c : Char) : Bool := c == ' ' || c == '\t' || c == '\r' || c == ','

/-- A comment runs from `;` to the end of the line (30_encoding.md R59). -/
def dropComment : List Char → List Char
  | [] => []
  | c :: cs => if c == ';' then [] else c :: dropComment cs

/-- The words of a line; `cur` is the word being read, its last letter first. -/
def wordsFrom (cur : List Char) : List Char → List (List Char)
  | [] => if cur.isEmpty then [] else [cur.reverse]
  | c :: cs =>
    if isSeparator c then
      if cur.isEmpty then wordsFrom [] cs else cur.reverse :: wordsFrom [] cs
    else wordsFrom (c :: cur) cs

/-- The lines of a text; `cur` is the line being read, its last letter first. -/
def linesFrom (cur : List Char) : List Char → List (List Char)
  | [] => [cur.reverse]
  | c :: cs => if c == '\n' then cur.reverse :: linesFrom [] cs else linesFrom (c :: cur) cs

/-- The value of a digit in a base of at most 16. -/
def digitValue (base : Nat) (c : Char) : Option Nat :=
  let n := c.toNat
  let v := if 48 ≤ n ∧ n ≤ 57 then n - 48 else if 97 ≤ n ∧ n ≤ 102 then n - 87 else if 65 ≤ n ∧ n ≤ 70 then n - 55 else 16
  if v < base then some v else none

/-- Digits, most significant first, after the value `acc`. -/
def digitsFrom (base acc : Nat) : List Char → Option Nat
  | [] => some acc
  | c :: cs => (digitValue base c).bind (fun v => digitsFrom base (acc * base + v) cs)

/-- A number: decimal or 0x-prefixed hexadecimal (30_encoding.md R59). -/
def number : List Char → Option Nat
  | [] => none
  | ['0', 'x'] => none
  | '0' :: 'x' :: ds => digitsFrom 16 0 ds
  | ds => digitsFrom 10 0 ds

/-- A letter of a name. -/
def isNameChar (c : Char) : Bool := c.isAlphanum || c == '_'

/-- The name of a value: letters, digits and `_`, a letter first (log 13). -/
def valueName : List Char → Option Name
  | [] => none
  | c :: cs => if c.isAlpha && cs.all isNameChar then some (c :: cs) else none

/-- The registers of 10_state.md R10 that have one address, with it (20_memory.md R30). -/
def plainRegisters : List (List Char × Nat) :=
  [("CMD".toList, 0x00), ("TX_STATUS".toList, 0x01), ("RX_STATUS".toList, 0x02), ("VF_STATUS".toList, 0x03),
   ("RX_LEN".toList, 0x04), ("EXP_LEN".toList, 0x05), ("RCV_LEN".toList, 0x06)] ++
  [("F_CLKF".toList, 0x10), ("F_CLKR".toList, 0x11), ("F_CLKOD".toList, 0x12), ("F_BWADJ".toList, 0x13),
   ("F_CHIPX".toList, 0x14), ("F_CHIPY".toList, 0x15), ("F_DELAY".toList, 0x16), ("F_WIDTH".toList, 0x17),
   ("F_MASK".toList, 0x18), ("F_DEBUG".toList, 0x19)] ++
  [("T_L5".toList, 0x48), ("T_L4".toList, 0x49), ("T_L3".toList, 0x4A)]

/-- The buffer registers: name, address of byte 1, number of places (20_memory.md R30). -/
def bufferRegisters : List (List Char × Nat × Nat) :=
  [("CE".toList, 0x08, 8), ("TX_FRAME".toList, 0x20, 15), ("RX_BUF".toList, 0x30, 19),
   ("EXP_BUF".toList, 0x80, 64), ("RCV_BUF".toList, 0xC0, 64)]

/-- The address of `name[k]`, k counted from 1 (30_encoding.md R59). -/
def bufferAddress (name : List Char) (k : Nat) : Option Nat :=
  (bufferRegisters.find? (fun r => r.1 == name)).bind (fun r => if 1 ≤ k ∧ k ≤ r.2.2 then some (r.2.1 + k - 1) else none)

/-- The letters before the first `[` and those after it. -/
def splitBracket : List Char → List Char × List Char
  | [] => ([], [])
  | c :: cs => if c == '[' then ([], cs) else (c :: (splitBracket cs).1, (splitBracket cs).2)

/-- The digits before a closing `]` that ends the word. -/
def closeBracket : List Char → Option (List Char)
  | [] => none
  | [c] => if c == ']' then some [] else none
  | c :: cs => (closeBracket cs).map (fun ds => c :: ds)

/-- An address: a number below 256, a register's name, or a buffer byte (30_encoding.md R59). -/
def address (w : List Char) : Option Addr :=
  let named := (plainRegisters.find? (fun r => r.1 == w)).map (fun r => r.2)
  let byte := (closeBracket (splitBracket w).2).bind (fun ds => (number ds).bind (bufferAddress (splitBracket w).1))
  ((number w).orElse (fun _ => named.orElse (fun _ => byte))).bind
    (fun n => if n < 256 then some (BitVec.ofNat 8 n) else none)

/-- A data operand: a number of 16 bits, or the name of a value (30_encoding.md R59). -/
def datum (w : List Char) : Option Datum :=
  match number w with
  | some n => if n < 65536 then some (.lit (BitVec.ofNat 16 n)) else none
  | none => (valueName w).map Datum.named

/-- All data operands of a list. -/
def data : List (List Char) → Option (List Datum)
  | [] => some []
  | w :: ws => (datum w).bind (fun d => (data ws).map (fun ds => d :: ds))

/-- The fields by the names of 30_encoding.md R52. -/
def fieldNames : List (List Char × Field) :=
  [("pll_clkf".toList, .clkf), ("pll_clkr".toList, .clkr), ("pll_clkod".toList, .clkod), ("pll_bwadj".toList, .bwadj),
   ("chip_x".toList, .chipX), ("chip_y".toList, .chipY), ("global_delay".toList, .delay),
   ("global_signal_width".toList, .width), ("global_busy_mask".toList, .mask), ("debug_mode_enable".toList, .debugMode)]

/-- The statement of a line's words: the forms of 30_encoding.md R59 and R60. -/
def statement : List (List Char) → Option Source
  | [] => none
  | m :: ws =>
    if m == "WR".toList then
      match ws with
      | [a, d] => (address a).bind (fun a => (datum d).map (fun d => .line (.write a d)))
      | _ => none
    else if m == "RD".toList then
      match ws with
      | [a] => (address a).map (fun a => .line (.read a none))
      | [a, arrow, n] =>
        if arrow == ['-', '>'] then (address a).bind (fun a => (valueName n).map (fun n => .line (.read a (some n)))) else none
      | _ => none
    else if m == "SETCE".toList then
      match ws with
      | [k, b] => (number k).bind (fun k => (datum b).map (fun b => .setCe k b))
      | _ => none
    else if m == "SETF".toList then
      match ws with
      | [f, v] => (fieldNames.find? (fun r => r.1 == f)).bind (fun r => (datum v).map (fun v => .setField r.2 v))
      | _ => none
    else if m == "LOADRX".toList then (data ws).map Source.loadRx
    else if m == "LOADEXP".toList then (data ws).map Source.loadExp
    else if m == "LOADRCV".toList then (data ws).map Source.loadRcv
    else if !ws.isEmpty then none
    else if m == "RESET".toList then some (.line .reset)
    else if m == "NOP".toList then some .nop
    else if m == "PACK".toList then some .pack
    else if m == "UNPACK".toList then some .unpack
    else if m == "VERIFY".toList then some .verify
    else if m == "COPYTX".toList then some .copyTx
    else none

/-- The source lines of a list of text lines, those without a statement left out; none where a line is no statement or its
statement is not well formed. -/
def sourceOf : List (List Char) → Option (List Source)
  | [] => some []
  | l :: ls =>
    match wordsFrom [] (dropComment l) with
    | [] => sourceOf ls
    | ws => (statement ws).bind (fun p => if p.wellFormed then (sourceOf ls).map (fun ps => p :: ps) else none)

/-- The program a text holds (30_encoding.md R59). -/
def program (text : List Char) : Option (List Source) := sourceOf (linesFrom [] text)

end Sys2Proof.Machine.Assembler
end

