-- ==== Sys2Proof/Tests/Slice0.lean ====
section
/-!
SUPPORT. Tests whose expected results stand in the spec (95_test_vectors.md and the rules named with each), the smoke tests of
WellFormed.lean, and for every obligation that has hypotheses one `witness_…` theorem that meets them.
-/

namespace Sys2Proof.Tests

open Sys2Proof Sys2Proof.Machine

/-- The next state an outcome gives, if it gives one. -/
def nextOf (o : Host.Outcome State Fault Refusal) : Option State :=
  match o with
  | .next t => some t
  | .fault _ => none
  | .refused _ => none

/-- A list of bytes as a buffer register, 0x00 after its end. -/
def buffer (n : Nat) (bs : List Byte) : Vector Byte n := Vector.ofFn (fun i : Fin n => bs.getD i.val 0x00#8)

/-- The example configuration "typ" of 40_frame_codec.md R61. -/
def typFields : FieldRegs :=
  { clkf := 39#16, clkr := 1#16, clkod := 3#16, bwadj := 39#16, chipX := 1#16, chipY := 2#16, delay := 341#16, width := 10#16,
    mask := 0xA5#16, debugMode := 1#16 }

/-- The frame of "typ" (40_frame_codec.md R61). -/
def typFrame : List Byte :=
  [0xFF, 0xFF, 0xFF, 0xFF, 0xFF, 0xFF, 0xFF, 0xFF, 0x9C, 0x4C, 0x9C, 0x22, 0x55, 0x55, 0x4B]

/-- The configuration "typ" loaded after reset. -/
def typState : State := { State.reset with ce := Vector.replicate 8 0xFF#8, fields := typFields }

/-- Every field at the largest value of its width (95_test_vectors.md P-max). -/
def maxFields : FieldRegs :=
  { clkf := 63#16, clkr := 15#16, clkod := 15#16, bwadj := 255#16, chipX := 31#16, chipY := 31#16, delay := 1023#16,
    width := 31#16, mask := 255#16, debugMode := 1#16 }

def maxState : State := { State.reset with ce := Vector.replicate 8 0xFF#8, fields := maxFields }

/-- F_CLKF one too many (95_test_vectors.md P-oor-clkf), with an older frame in TX_FRAME. -/
def outState : State :=
  { State.reset with fields := { FieldRegs.reset with clkf := 64#16 }, txStatus := 1#2, txFrame := buffer 15 typFrame }

/-- The telemetry bytes U-ex of 95_test_vectors.md §2.2. -/
def exBytes : List Byte := [0x87, 0, 1, 0x80, 0, 0, 0, 0, 0, 0, 1, 0, 0, 0, 0, 0, 0, 0, 3]

def exState : State := { State.reset with rxBuf := buffer 19 exBytes, rxLen := 19#5 }

/-- U-short18 of 95_test_vectors.md §2.2, with older telemetry in T_L3. -/
def shortState : State := { exState with rxLen := 18#5, tL3 := 0xBEEF#16 }

/-- Two operands of VERIFY, with their lengths. -/
def verifyState (e r : List Byte) : State :=
  { State.reset with
    expBuf := buffer 64 e
    expLen := BitVec.ofNat 7 e.length
    rcvBuf := buffer 64 r
    rcvLen := BitVec.ofNat 7 r.length }

/-- The state with these lines pending. -/
def pendingState (ls : List Line) (s : State) : State := { s with port := { s.port with pending := ls } }

/-! ## Decoding: the words of 30_encoding.md R46, R47 and R59, bit by bit -/

theorem test_decode_nop : decode 0b00000000000000_00#16 = .nop 0#14 := by decide
theorem test_decode_pack : decode 0b00000000000000_01#16 = .pack 0#14 := by decide
theorem test_decode_unpack : decode 0b00000000000000_10#16 = .unpack 0#14 := by decide
theorem test_decode_verify : decode 0b00000000000000_11#16 = .verify 0#14 := by decide
theorem test_decode_ignored_bits : decode 0b10000000000001_10#16 = .unpack 0b10000000000001#14 := by decide
theorem test_decode_table_word :
    decodeTableWord 16 0x0003 = some (.verify 0#14) ∧ decodeTableWord 8 0x01 = some (.pack 0#14) ∧ decodeTableWord 17 0 = none := by
  decide

/-! ## Well-formedness: what the check refuses -/

theorem test_setce_0_refused : Source.wellFormed (.setCe 0 (.lit 0#16)) = false := by decide
theorem test_setce_9_refused : Source.wellFormed (.setCe 9 (.lit 0#16)) = false := by decide
theorem test_loadrx_20_refused : Source.wellFormed (.loadRx (List.replicate 20 (.lit 0#16))) = false := by decide
theorem test_loadexp_65_refused : Source.wellFormed (.loadExp (List.replicate 65 (.lit 0#16))) = false := by
  have h := Config.vmax_le
  simp only [Source.wellFormed, List.length_replicate, decide_eq_false_iff_not]
  omega
theorem test_loadrcv_65_refused : Source.wellFormed (.loadRcv (List.replicate 65 (.lit 0#16))) = false := by
  have h := Config.vmax_le
  simp only [Source.wellFormed, List.length_replicate, decide_eq_false_iff_not]
  omega
theorem test_loadexp_15_accepted : Source.wellFormed (.loadExp (List.replicate 15 (.lit 0#16))) = true := by
  have h := Config.vmax_ge
  simp only [Source.wellFormed, List.length_replicate, decide_eq_true_eq]
  exact h
theorem test_unbound_name_refused : wellScoped [] [.write 0x80#8 (.named ['x']), .read 0x20#8 (some ['x'])] = false := by decide
theorem test_name_out_of_bound_refused : Datum.boundIn [['y']] (.named ['x']) = false := by decide
theorem test_bound_name_accepted : wellScoped [] [.read 0x20#8 (some ['x']), .write 0x80#8 (.named ['x'])] = true := by decide

/-! ## The operations -/

/-- 95_test_vectors.md N-nop-hi. -/
theorem test_nop_with_ignored_bits : nextOf (hostWrite 0x00#8 0x0004#16 typState) = some typState := by decide

/-- 40_frame_codec.md R61, the example "typ". -/
theorem test_pack_typ :
    (nextOf (exec (.pack 0#14) typState)).map (fun t => (t.txFrame.toList, t.txStatus)) = some (typFrame, 1#2) := by decide

/-- 95_test_vectors.md P-oor-high: only the top bit of F_DEBUG set is out of range, and the older frame stays. -/
theorem test_pack_high_bit_out_of_range :
    (nextOf (exec (.pack 0#14) { outState with fields := { FieldRegs.reset with debugMode := 0x8000#16 } })).map
      (fun t => (t.txFrame.toList, t.txStatus)) = some (typFrame, 2#2) := by decide

/-- 95_test_vectors.md U-ex. -/
theorem test_unpack_ex :
    (nextOf (exec (.unpack 0#14) exState)).map (fun t => (t.tL5, t.tL4, t.tL3, t.tL2Busy, t.tL2Done)) =
      some (1#1, 0#4, 0x0001#16, 0x8000000000000001#64, 0x0000000000000003#64) := by decide

/-- 95_test_vectors.md U-short18. -/
theorem test_unpack_short : nextOf (exec (.unpack 0#14) shortState) = some { shortState with rxStatus := 2#2 } := by decide

/-- 95_test_vectors.md V-flip-mid. -/
theorem test_verify_flipped_byte :
    (nextOf (exec (.verify 0#14) (verifyState typFrame (typFrame.set 11 0x23#8)))).map (fun t => t.vfStatus) = some 2#2 := by
  decide

/-- 95_test_vectors.md V-beyond: the byte after the lengths is not compared. -/
theorem test_verify_beyond :
    (nextOf (exec (.verify 0#14) { verifyState [0x11#8, 0x22#8, 0x33#8, 0xAA#8] [0x11#8, 0x22#8, 0x33#8, 0xBB#8] with
      expLen := 3#7, rcvLen := 3#7 })).map (fun t => t.vfStatus) = some 1#2 := by decide

/-! ## Host access -/

/-- 95_test_vectors.md H-trunc. -/
theorem test_byte_write_truncates :
    (nextOf (hostWrite 0x08#8 0x1234#16 State.reset)).map (hostRead 0x08#8) = some 0x0034#16 := by decide

/-- 95_test_vectors.md H-field16. -/
theorem test_field_write_whole :
    (nextOf (hostWrite 0x10#8 0xFFFF#16 State.reset)).map (hostRead 0x10#8) = some 0xFFFF#16 := by decide

/-- 95_test_vectors.md H-clamp. -/
theorem test_rxlen_clamps :
    (nextOf (hostWrite 0x04#8 25#16 State.reset)).map (hostRead 0x04#8) = some 0x0013#16 := by decide

/-- 95_test_vectors.md H-ro. -/
theorem test_status_write_ignored : nextOf (hostWrite 0x01#8 3#16 State.reset) = some State.reset := by decide

/-- 95_test_vectors.md H-beyond, for an implementation with VMAX = 32. -/
theorem test_write_beyond_vmax (h : Config.vmax = 32) :
    (nextOf (hostWrite 0xA0#8 0x0055#16 State.reset)).map (hostRead 0xA0#8) = some 0x0000#16 := by
  have h1 : regAt 0xA0#8 = .expBuf 32 := by decide
  have h2 : placeExists 32 = false := by simp [placeExists, h]
  simp [hostWrite, hostRead, nextOf, h1, writeReg, readReg, h2]

/-- 95_test_vectors.md §2.2, the word reads after U-ex. -/
theorem test_telemetry_words :
    (nextOf (exec (.unpack 0#14) exState)).map
      (fun t => [hostRead 0x4B#8 t, hostRead 0x4C#8 t, hostRead 0x4E#8 t, hostRead 0x4F#8 t, hostRead 0x52#8 t]) =
      some [0x8000#16, 0#16, 0x0001#16, 0#16, 0x0003#16] := by decide

/-! ## A program's text -/

/-- 30_encoding.md R59's example `WR F_CLKF, 63`, and a read that names its value, with comments and an empty line. -/
theorem test_assembler :
    Assembler.program "WR F_CLKF, 63 ; (W,0x10,0x003F)\n\nRD TX_FRAME[9] -> f9\nPACK ; go".toList =
      some [.line (.write 0x10#8 (.lit 63#16)), .line (.read 0x28#8 (some ['f', '9'])), .pack] := by decide

/-- What 30_encoding.md R60 has no form for: CE[9]. -/
theorem test_assembler_refuses_setce_9 : Assembler.program "SETCE 9, 0x01".toList = none := by decide

/-- 30_encoding.md R60: the first and last lines of `COPYTX`. -/
theorem test_copytx_lines :
    (expand .copyTx).take 2 = [.read 0x20#8 (some ['t', '_', '1']), .write 0x80#8 (.named ['t', '_', '1'])] ∧
    (expand .copyTx).drop 28 =
      [.read 0x2E#8 (some ['t', '_', '1', '5']), .write 0x8E#8 (.named ['t', '_', '1', '5']), .write 0x05#8 (.lit 15#16)] := by
  decide

/-! ## Witnesses: states and operands that meet the hypotheses of the obligations -/

theorem fit_reset : FieldRegs.reset.Fit := by constructor <;> decide

/-- Every bound of 40_frame_codec.md R62 is met at its largest value. -/
theorem fit_max : maxFields.Fit := by constructor <;> decide

theorem fit_typ : typFields.Fit := by constructor <;> decide

/-- F_CLKF = 64 does not fit. -/
theorem not_fit_out : ¬ outState.fields.Fit := fun h => absurd h.clkf (by decide)

/-- A state with a byte sequence of at most 15 bytes on both sides of the verifier is in bounds, whatever VMAX is. -/
theorem typ_verify_inBounds : (verifyState typFrame typFrame).InBounds where
  txCode := by decide
  rxCode := by decide
  vfCode := by decide
  rxLen := by decide
  expLen := Config.vmax_ge
  rcvLen := Config.vmax_ge
  expEnd := by
    have hz : ∀ i : Fin 64, 15 ≤ i.val → (verifyState typFrame typFrame).expBuf[i.val] = 0x00#8 := by decide
    exact fun i hi => hz i (Nat.le_trans Config.vmax_ge hi)
  rcvEnd := by
    have hz : ∀ i : Fin 64, 15 ≤ i.val → (verifyState typFrame typFrame).rcvBuf[i.val] = 0x00#8 := by decide
    exact fun i hi => hz i (Nat.le_trans Config.vmax_ge hi)

theorem reset_inBounds : State.reset.InBounds where
  txCode := by decide
  rxCode := by decide
  vfCode := by decide
  rxLen := by decide
  expLen := Nat.zero_le _
  rcvLen := Nat.zero_le _
  expEnd := by
    have hz : ∀ i : Fin 64, State.reset.expBuf[i.val] = 0x00#8 := by decide
    exact fun i _ => hz i
  rcvEnd := by
    have hz : ∀ i : Fin 64, State.reset.rcvBuf[i.val] = 0x00#8 := by decide
    exact fun i _ => hz i

theorem witness_CommandWordRoundTrip : (Instr.verify 0x3FFF#14).wellFormed = true := by decide

theorem witness_EveryWordSelectsOneOperation :
    (0xFFFC#16).extractLsb' 0 2 = 0b00#2 ∧ (0x0001#16).extractLsb' 0 2 = 0b01#2 ∧ (0x0002#16).extractLsb' 0 2 = 0b10#2 ∧
    (0xFFFF#16).extractLsb' 0 2 = 0b11#2 := by decide

theorem witness_OpAloneSelectsTheOperation : (0x0001#16).extractLsb' 0 2 = (0xFFFD#16).extractLsb' 0 2 := by decide

theorem witness_CmdPerformsAndHoldsNothing : (0xFFFE#16).extractLsb' 0 2 = (0x0002#16).extractLsb' 0 2 := by decide

/-- A write of a number, and one of a value read earlier. -/
theorem witness_StepRunsTheCommandWord :
    (∃ s : State, s.port.pending = .write 0x00#8 (.lit 1#16) :: [] ∧ datumWord (.lit 1#16) s = .ok 1#16) ∧
    (∃ s : State, s.port.pending = .write 0x00#8 (.named ['x']) :: [] ∧ datumWord (.named ['x']) s = .ok 3#16) :=
  ⟨⟨pendingState [.write 0x00#8 (.lit 1#16)] State.reset, rfl, rfl⟩,
   ⟨{ State.reset with port := { pending := [.write 0x00#8 (.named ['x'])], replies := [⟨some ['x'], 3#16⟩] } }, rfl, rfl⟩⟩

theorem witness_StepIssuesOneTransaction :
    State.reset.port.pending = [] ∧
    (∃ s : State, s.port.pending = .write 0x10#8 (.lit 63#16) :: [] ∧ datumWord (.lit 63#16) s = .ok 63#16) ∧
    (∃ s : State, s.port.pending = .read 0x01#8 none :: [] ∧ ∀ c, regAt 0x01#8 = .status c → statusOf c s ≠ 3#2) ∧
    (∃ s : State, s.port.pending = .reset :: [.read 0x00#8 none]) :=
  ⟨rfl, ⟨pendingState [.write 0x10#8 (.lit 63#16)] typState, rfl, rfl⟩,
   ⟨pendingState [.read 0x01#8 none] outState, rfl, fun c _ => by cases c <;> decide⟩,
   ⟨pendingState [.reset, .read 0x00#8 none] typState, rfl⟩⟩

theorem witness_StepStopsOnlyAsNamed :
    (step (pendingState [.read 0x03#8 none] { State.reset with vfStatus := 3#2 }) = .fault (.reservedStatusCode .vf)) ∧
    (step (pendingState [.write 0x80#8 (.named ['x'])] State.reset) = .refused (.unboundName ['x'])) ∧
    (∃ s : State, s.port.pending = .write 0x80#8 (.named ['x']) :: [] ∧ lookupName ['x'] s.port.replies = none) ∧
    (∃ s : State, s.port.pending = .read 0x03#8 none :: [] ∧ regAt 0x03#8 = .status .vf ∧ statusOf .vf s = 3#2) :=
  ⟨rfl, rfl, ⟨pendingState [.write 0x80#8 (.named ['x'])] State.reset, rfl, rfl⟩,
   ⟨pendingState [.read 0x03#8 none] { State.reset with vfStatus := 3#2 }, rfl, by decide, rfl⟩⟩

theorem witness_NopLeavesTheState : (0x0004#16).extractLsb' 0 2 = 0b00#2 := by decide

/-- The bounds are met at 2^w - 1 and not at 2^w. -/
theorem witness_PackIsAllOrNothing : maxState.fields.Fit ∧ ¬ outState.fields.Fit := ⟨fit_max, not_fit_out⟩

theorem witness_PackedBytesByFormula : maxState.fields.Fit := fit_max

theorem witness_PackPlacesFieldsMsbFirst : typState.fields.Fit := fit_typ

theorem witness_PackCopiesClockEnables : typState.fields.Fit := fit_typ

/-- A legal table that is not the default: `pll_clkf` and `pll_clkod` after their neighbours, `pll_clkr` where it must be. -/
def otherTable : FieldTable :=
  [⟨.chipY, 5, 64⟩, ⟨.debugMode, 1, 69⟩, ⟨.clkr, 4, 70⟩, ⟨.clkod, 4, 74⟩, ⟨.bwadj, 8, 78⟩, ⟨.chipX, 5, 86⟩, ⟨.clkf, 6, 91⟩,
   ⟨.delay, 10, 97⟩, ⟨.width, 5, 107⟩, ⟨.mask, 8, 112⟩]

theorem otherTable_legal : otherTable.legal := by
  refine ⟨?_, by decide, by decide, by decide⟩
  intro f
  cases f <;> decide

theorem witness_ClkrSplitInEveryLegalTable : otherTable.legal ∧ allInRange otherTable typState = true :=
  ⟨otherTable_legal, by decide⟩

/-- A legal table with a bit that no row covers: `chip_y` is 4 bits wide, so bit 68 is no field's (log 17). -/
def gapTable : FieldTable := ⟨.chipY, 4, 64⟩ :: otherTable.tail

theorem gapTable_legal : gapTable.legal := by
  refine ⟨?_, by decide, by decide, by decide⟩
  intro f
  cases f <;> decide

theorem gapTable_gap : ∀ r ∈ gapTable, r.covers 68 = false := by decide

/-- 95_test_vectors.md S10: chip_x changed from 1 to 31; stream bit 119 is not chip_x's in the first table, and bit 68 no
field's in the second. -/
theorem witness_ChangingOneFieldChangesOnlyItsBits :
    otherTable.legal ∧ allInRange otherTable typState = true ∧
    allInRange otherTable { typState with fields := typState.fields.set .chipX 31#16 } = true ∧ 119 < 120 ∧
    (∀ r ∈ otherTable, r.field = .chipX → r.covers 119 = false) ∧
    gapTable.legal ∧ allInRange gapTable typState = true ∧
    allInRange gapTable { typState with fields := typState.fields.set .chipX 31#16 } = true ∧ 68 < 120 ∧
    (∀ r ∈ gapTable, r.field = .chipX → r.covers 68 = false) :=
  ⟨otherTable_legal, by decide, by decide, by decide, by decide, gapTable_legal, by decide, by decide, by decide,
   fun r hr _ => gapTable_gap r hr⟩

theorem witness_EveryFrameIsOneConfiguration :
    64 ≤ 64 ∧ 119 < 120 ∧ ∃ s : State, s.ce = Vector.replicate 8 0xFF#8 ∧ s.fields = typFields :=
  ⟨by decide, by decide, typState, rfl, rfl⟩

/-- A successful and a failing PACK, two states with the same inputs, and two successful PACKs with one frame. -/
theorem witness_PackIsAPureInjection :
    (∃ t, exec (.pack 0#14) typState = .next t) ∧ (∃ t, exec (.pack 0#14) outState = .next t) ∧
    (typState.ce = { typState with txStatus := 2#2 }.ce ∧ typState.fields = { typState with txStatus := 2#2 }.fields) ∧
    (∃ t v, exec (.pack 0#14) typState = .next t ∧ exec (.pack 5#14) { typState with rxLen := 4#5 } = .next v ∧
      t.txStatus = 1#2 ∧ v.txStatus = 1#2 ∧ t.txFrame = v.txFrame) :=
  ⟨⟨_, rfl⟩, ⟨_, rfl⟩, ⟨rfl, rfl⟩, ⟨_, _, rfl, rfl, by decide, by decide, by decide⟩⟩

theorem witness_CheckOrderDoesNotMatter : otherTable.legal ∧ otherTable.Perm otherTable.reverse ∧
    gapTable.legal ∧ gapTable.Perm gapTable.reverse :=
  ⟨otherTable_legal, (List.reverse_perm _).symm, gapTable_legal, (List.reverse_perm _).symm⟩

/-- The addresses on both sides of the TX channel's. -/
theorem witness_PackChangesOnlyTxChannel :
    (∃ t, exec (.pack 0#14) typState = .next t) ∧ (0x00#8 ≠ 0x01#8 ∧ (0x1F#8).toNat < 0x20) ∧ 0x2E < (0x2F#8).toNat :=
  ⟨⟨_, rfl⟩, by decide, by decide⟩

theorem witness_UnpackDecodesOrReportsShort : 19 ≤ exState.rxLen.toNat ∧ shortState.rxLen.toNat < 19 := by decide

theorem witness_TelemetryClustersByStreamBit :
    exState.rxLen.toNat = 19 ∧ (1 ≤ 1 ∧ 4 ≤ 4) ∧ (1 ≤ 16 ∧ 16 ≤ 16) ∧ (1 ≤ 64 ∧ 64 ≤ 64) := by decide

theorem witness_BothClusterNumberingsNameOnePosition :
    1 ≤ 1 ∧ 64 ≤ 64 ∧ { exState with fields := typFields }.fields.Fit ∧ { exState with fields := typFields }.rxLen.toNat = 19 :=
  ⟨by decide, by decide, fit_typ, by decide⟩

theorem witness_ShortBufferBelowNineteen : shortState.rxLen.toNat < 19 ∧ 19 ≤ exState.rxLen.toNat := by decide

/-- 95_test_vectors.md U-rsv: byte 1 is 0x07 where the buffer has 0x00. -/
theorem witness_UnpackIgnoresReservedBits :
    (0x07#8).extractLsb' 3 5 = (State.reset.rxBuf[0]).extractLsb' 3 5 := by decide

theorem witness_UnpackReadsOnlyRxBuffer :
    exState.rxLen = { exState with fields := maxFields, txStatus := 2#2 }.rxLen ∧
    exState.rxBuf = { exState with fields := maxFields, txStatus := 2#2 }.rxBuf := ⟨rfl, rfl⟩

theorem witness_TelemetryWordsMostSignificantFirst :
    ∃ t, exec (.unpack 0#14) exState = .next t ∧ t.rxStatus = 1#2 := ⟨_, rfl, by decide⟩

/-- The addresses on both sides of the RX channel's. -/
theorem witness_UnpackChangesOnlyRxChannel :
    (∃ t, exec (.unpack 0#14) exState = .next t) ∧ (0x47#8 ≠ 0x02#8 ∧ (0x47#8).toNat < 0x48) ∧ 0x52 < (0x53#8).toNat :=
  ⟨⟨_, rfl⟩, by decide, by decide⟩

/-- A match of 15 bytes and the same with its last byte changed (95_test_vectors.md V-eq, V-flip-last). -/
theorem witness_VerifyComparesLengthAndBytes :
    (verifyState typFrame typFrame).expLen.toNat ≤ 64 ∧
    ((verifyState typFrame typFrame).expLen = (verifyState typFrame typFrame).rcvLen ∧
      ∀ i : Fin 64, i.val < (verifyState typFrame typFrame).expLen.toNat →
        (verifyState typFrame typFrame).expBuf[i.val] = (verifyState typFrame typFrame).rcvBuf[i.val]) ∧
    ¬ ((verifyState typFrame (typFrame.set 14 0x4A#8)).expLen = (verifyState typFrame (typFrame.set 14 0x4A#8)).rcvLen ∧
      ∀ i : Fin 64, i.val < (verifyState typFrame (typFrame.set 14 0x4A#8)).expLen.toNat →
        (verifyState typFrame (typFrame.set 14 0x4A#8)).expBuf[i.val] =
          (verifyState typFrame (typFrame.set 14 0x4A#8)).rcvBuf[i.val]) := by decide

/-- 95_test_vectors.md V-0vs1 and V-flip-first. -/
theorem witness_LengthMismatchComesFirst :
    (verifyState [] [0x00#8]).expLen ≠ (verifyState [] [0x00#8]).rcvLen ∧
    (verifyState typFrame (typFrame.set 0 0x7F#8)).expLen = (verifyState typFrame (typFrame.set 0 0x7F#8)).rcvLen ∧
    (∃ i : Fin 64, i.val < (verifyState typFrame (typFrame.set 0 0x7F#8)).expLen.toNat ∧
      (verifyState typFrame (typFrame.set 0 0x7F#8)).expBuf[i.val] ≠
        (verifyState typFrame (typFrame.set 0 0x7F#8)).rcvBuf[i.val]) := ⟨by decide, by decide, 0, by decide, by decide⟩

/-- Byte 4 of each buffer changed, the lengths being 3 (95_test_vectors.md V-beyond). -/
theorem witness_BytesBeyondTheLengthsDoNotCount :
    (∀ i : Fin 64, i.val < (verifyState [1#8, 2#8, 3#8] [1#8, 2#8, 3#8]).expLen.toNat →
      (buffer 64 [1#8, 2#8, 3#8, 0xAA#8])[i.val] = (verifyState [1#8, 2#8, 3#8] [1#8, 2#8, 3#8]).expBuf[i.val]) ∧
    (∀ i : Fin 64, i.val < (verifyState [1#8, 2#8, 3#8] [1#8, 2#8, 3#8]).rcvLen.toNat →
      (buffer 64 [1#8, 2#8, 3#8, 0xBB#8])[i.val] = (verifyState [1#8, 2#8, 3#8] [1#8, 2#8, 3#8]).rcvBuf[i.val]) := by decide

/-- Lengths 0 and 15 for reflexivity, 15 against 14, a bit of the first and of the last byte, and two states that agree on the
operands. -/
theorem witness_VerifyProperties :
    ((verifyState [] []).expLen.toNat ≤ Config.vmax ∧ (verifyState [] []).rcvLen = (verifyState [] []).expLen ∧
      (verifyState [] []).rcvBuf = (verifyState [] []).expBuf) ∧
    ((verifyState typFrame typFrame).expLen.toNat ≤ Config.vmax ∧
      (verifyState typFrame typFrame).rcvLen = (verifyState typFrame typFrame).expLen ∧
      (verifyState typFrame typFrame).rcvBuf = (verifyState typFrame typFrame).expBuf) ∧
    ((verifyState typFrame (typFrame.take 14)).expLen.toNat ≤ Config.vmax ∧
      (verifyState typFrame (typFrame.take 14)).rcvLen.toNat + 1 = (verifyState typFrame (typFrame.take 14)).expLen.toNat) ∧
    (0 < (verifyState typFrame typFrame).expLen.toNat ∧ 14 < (verifyState typFrame typFrame).expLen.toNat ∧
      ∃ r : Vector Byte 64, r = (verifyState typFrame typFrame).expBuf.set 14
        ((verifyState typFrame typFrame).expBuf[14] ^^^ BitVec.twoPow 8 7)) ∧
    (∃ u : State, u ≠ verifyState typFrame typFrame ∧ u.expLen = (verifyState typFrame typFrame).expLen ∧
      u.rcvLen = (verifyState typFrame typFrame).rcvLen ∧ u.expBuf = (verifyState typFrame typFrame).expBuf ∧
      u.rcvBuf = (verifyState typFrame typFrame).rcvBuf) :=
  ⟨⟨Nat.zero_le _, rfl, rfl⟩, ⟨Config.vmax_ge, rfl, rfl⟩, ⟨Config.vmax_ge, rfl⟩, ⟨by decide, by decide, ⟨_, rfl⟩⟩,
   ⟨{ verifyState typFrame typFrame with txStatus := 2#2 }, by decide, rfl, rfl, rfl, rfl⟩⟩

theorem witness_VerifyChangesOnlyVfStatus :
    (∃ t, exec (.verify 0#14) (verifyState typFrame typFrame) = .next t) ∧ 0x02#8 ≠ 0x03#8 := ⟨⟨_, rfl⟩, by decide⟩

theorem witness_ErrorReportIsPrecise :
    (∃ t, exec (.pack 0#14) outState = .next t ∧ t.txStatus = 2#2) ∧
    (∃ t, exec (.unpack 0#14) shortState = .next t ∧ t.rxStatus = 2#2) ∧
    (∃ t, (verifyState typFrame typFrame).InBounds ∧ exec (.pack 0#14) (verifyState typFrame typFrame) = .next t) :=
  ⟨⟨_, rfl, by decide⟩, ⟨_, rfl, by decide⟩, ⟨_, typ_verify_inBounds, rfl⟩⟩

theorem witness_ReportedConditionsAreComplete :
    (∃ t, exec (.pack 0#14) outState = .next t ∧ t.txStatus = 2#2 ∧ t.txStatus ≠ outState.txStatus) ∧
    (∃ t, exec (.unpack 0#14) shortState = .next t ∧ t.rxStatus = 2#2 ∧ t.rxStatus ≠ shortState.rxStatus) ∧
    (∃ t, (verifyState typFrame typFrame).InBounds ∧ exec (.verify 0#14) (verifyState typFrame typFrame) = .next t ∧
      t.vfStatus ≠ (verifyState typFrame typFrame).vfStatus) ∧
    (∃ t, State.reset.InBounds ∧ exec (.verify 0#14) { State.reset with rcvLen := 1#7 } = .next t ∧ t.vfStatus = 2#2) :=
  ⟨⟨_, rfl, by decide, by decide⟩, ⟨_, rfl, by decide, by decide⟩, ⟨_, typ_verify_inBounds, rfl, by decide⟩,
   ⟨_, reset_inBounds, rfl, by decide⟩⟩

theorem witness_OnlyItsOperationWritesAStatus :
    ∃ t, transact none (.write 0x00#8 1#16) typState = .next t ∧ t.txStatus ≠ typState.txStatus :=
  ⟨_, rfl, by decide⟩

theorem witness_OperationsWriteNoInputRegister : ∃ t, exec (.unpack 0#14) exState = .next t := ⟨_, rfl⟩

theorem witness_OutputsAreSnapshots : 0x10#8 ≠ 0x00#8 := by decide

/-- Byte 15 of the verifier buffers exists for every VMAX; each range of addresses at its ends. The ranges beyond VMAX are
empty when VMAX is 64, which the spec allows (00_scope.md R5). -/
theorem witness_HostWriteEffects :
    (14 : Fin 64).val < Config.vmax ∧ ((1 ≤ 1 ∧ 1 ≤ 3) ∧ (0x20 ≤ 0x2E ∧ 0x2E ≤ 0x2E) ∧ (0x48 ≤ 0x52 ∧ 0x52 ≤ 0x52)) ∧
    ((0x1A ≤ 0x1F ∧ 0x1F ≤ 0x1F) ∧ (0x43 ≤ 0x47 ∧ 0x47 ≤ 0x47) ∧ (0x53 ≤ 0x7F ∧ 0x7F ≤ 0x7F)) ∧
    (Config.vmax < 64 → (0x80 + Config.vmax ≤ 0xBF ∧ 0xBF ≤ 0xBF) ∧ (0xC0 + Config.vmax ≤ 0xFF ∧ 0xFF ≤ 0xFF)) := by
  have h := Config.vmax_ge
  refine ⟨?_, by decide, by decide, ?_⟩
  · exact Nat.lt_of_lt_of_le (by decide) h
  · omega

theorem witness_HostReadValues :
    (14 : Fin 64).val < Config.vmax ∧ (0x1A ≤ 0x1A ∧ 0x1A ≤ 0x1F) ∧
    (∃ t, transact none (.read 0x10#8) typState = .next t) :=
  ⟨Nat.lt_of_lt_of_le (by decide) Config.vmax_ge, by decide, ⟨_, rfl⟩⟩

/-- Address 0x07 for R33; for R34 the first and the last place beyond VMAX, where the implementation has one. -/
theorem witness_ReservedAddressesHoldNothing :
    (0x53 ≤ 0x53 ∧ 0x53 ≤ 0x7F) ∧
    (Config.vmax < 64 → (Config.vmax < Config.vmax + 1 ∧ Config.vmax + 1 ≤ 64) ∧ Config.vmax < 64 ∧ 64 ≤ 64) := by
  refine ⟨by decide, ?_⟩
  omega

theorem witness_ByteWritesKeepTheLowByte :
    (0x08 ≤ 0x0F ∧ 0x0F ≤ 0x0F) ∧ (0x30 ≤ 0x42 ∧ 0x42 ≤ 0x42) ∧ (0x80 ≤ 0x8E ∧ 0x8E < 0x80 + Config.vmax) ∧
    (0xC0 ≤ 0xC0 ∧ 0xC0 < 0xC0 + Config.vmax) := by
  have h := Config.vmax_ge
  omega

theorem witness_HostAccessHasNoSideEffects :
    (0x10#8 ≠ 0x00#8 ∧ 0x11#8 ≠ 0x10#8 ∧ ∃ t, hostWrite 0x10#8 63#16 typState = .next t) ∧
    (∃ t, transact (some ['x']) (.read 0x10#8) typState = .next t) := ⟨⟨by decide, by decide, ⟨_, rfl⟩⟩, ⟨_, rfl⟩⟩

theorem witness_WritesToDifferentRegistersCommute : 0x08#8 ≠ 0x09#8 ∧ 0x08#8 ≠ 0x00#8 ∧ 0x09#8 ≠ 0x00#8 := by decide

theorem witness_EveryStepKeepsBounds :
    (verifyState typFrame typFrame).InBounds ∧ ∃ t, step (verifyState typFrame typFrame) = .next t :=
  ⟨typ_verify_inBounds, ⟨_, rfl⟩⟩

/-- A state whose channels are EMPTY, and one in which both hold results. -/
theorem witness_EveryStepKeepsEmptyMeaning :
    (pendingState [.write 0x00#8 (.lit 1#16)] typState).EmptyMeansReset ∧
    (∃ t, step (pendingState [.write 0x00#8 (.lit 1#16)] typState) = .next t) ∧
    { outState with rxStatus := 1#2, tL3 := 5#16 }.EmptyMeansReset :=
  ⟨⟨fun _ => rfl, fun _ => ⟨rfl, rfl, rfl, rfl, rfl⟩⟩, ⟨_, rfl⟩, ⟨fun h => absurd h (by decide), fun h => absurd h (by decide)⟩⟩

/-- A host that reads a value and sends it, from a state in bounds. -/
theorem witness_SafeRunsNeverStop :
    (pendingState [.read 0x20#8 (some ['x']), .write 0x80#8 (.named ['x'])] State.reset).Safe :=
  ⟨⟨by decide, by decide, by decide, by decide, Nat.zero_le _, Nat.zero_le _, reset_inBounds.expEnd, reset_inBounds.rcvEnd⟩,
   rfl⟩

theorem witness_LinesRunAsSteps :
    ∃ t, runLines [.write 0x10#8 (.lit 63#16), .write 0x00#8 (.lit 1#16), .read 0x01#8 none]
      (withPending [.reset] State.reset) = .next t := ⟨_, rfl⟩

theorem witness_LoadsFillBufferAndLength :
    exBytes.length ≤ 19 ∧ ([] : List Byte).length ≤ 19 ∧ typFrame.length ≤ Config.vmax := ⟨by decide, by decide, Config.vmax_ge⟩

theorem witness_RoundMatchesExactEchoOnly :
    (verifyState typFrame []).expLen = 15#7 ∧ typFrame.length ≤ 15 ∧ ([] : List Byte).length ≤ 15 := by decide

/-- Three rounds: an exact echo, a corrupted byte and a failed read (95_test_vectors.md S14, 60_exceptions.md R82). -/
theorem witness_SessionSucceedsIffEveryEchoIsExact :
    typState.fields.Fit ∧ ∀ r ∈ [typFrame, typFrame.set 11 0x23#8, []], r.length ≤ 15 := ⟨fit_typ, by decide⟩

/-- The older frame of `outState` is VALID before the session, which ends nevertheless at its own failed PACK. -/
theorem witness_SessionEndsAtAFailedPack : ¬ outState.fields.Fit := not_fit_out

/-- The longest round and the empty one, and a line of each kind in their expansion. -/
theorem witness_SessionRoundsKeepTheOperands :
    (∀ r ∈ [typFrame, []], r.length ≤ 15) ∧
    .write 0xCE#8 (byteDatum 0x4B#8) ∈ expandAll ([typFrame, []].flatMap roundSource) ∧
    .write 0x00#8 (.lit 0x0003#16) ∈ expandAll ([typFrame, []].flatMap roundSource) := by decide

end Sys2Proof.Tests
end

/-!
PROOFS. The family 10_state.md: what one operation writes, what one step writes, and the invariants of the register table
(R9 to R28). An operation is seen here through its channel: it loads that channel's outputs or none, then reports there.
-/

namespace Sys2Proof

/-- The channel of an operation; NOP has none (10_state.md R14 to R17). -/
def Instr.channel : Instr → Option Channel
  | .nop _ => none
  | .pack _ => some .tx
  | .unpack _ => some .rx
  | .verify _ => some .vf

/-- The channel a register is an output or the status of; none for the inputs, CMD and reserved places (10_state.md R10). -/
def Reg.channel : Reg → Option Channel
  | .status c => some c
  | .txFrame _ => some .tx
  | .tL5 => some .rx
  | .tL4 => some .rx
  | .tL3 => some .rx
  | .tL2Busy _ => some .rx
  | .tL2Done _ => some .rx
  | _ => none

/-- The OP code that selects a channel's operation (30_encoding.md R47). -/
def Channel.opCode : Channel → BitVec 2
  | .tx => 0b01#2
  | .rx => 0b10#2
  | .vf => 0b11#2

end Sys2Proof

namespace Sys2Proof.Machine

open Sys2Proof.Laws.EncodedOp (opCode)

/-! ## OP codes and channels -/

/-- The decoder follows OP (30_encoding.md R47). -/
theorem opCode_decode (w : Word) : opCode (decode w) = opOf w := by
  unfold decode
  split
  · next h => exact h.symm
  split
  · next h => exact h.symm
  split
  · next h => exact h.symm
  · next h0 h1 h2 =>
    show 0b11#2 = opOf w
    generalize opOf w = op at h0 h1 h2
    revert op
    decide

/-- No meaning reads the ignored bits: OP alone selects it (30_encoding.md R46). Of two different constructors the OP codes
differ, so only the four pairs of like operations are left. -/
theorem exec_eq_of_opCode_eq {i j : Instr} (h : opCode i = opCode j) (s : State) : exec i s = exec j s := by
  cases i <;> cases j <;> cases h <;> rfl

theorem opCode_eq_of_channel {i : Instr} {c : Channel} (h : i.channel = some c) : opCode i = c.opCode := by
  cases i <;> cases h <;> rfl

/-! The addresses of a channel's outputs and status (20_memory.md R30). -/

theorem channel_regAt_tx {a : Addr} :
    (regAt a).channel = some .tx ↔ a = 0x01#8 ∨ (0x20 ≤ a.toNat ∧ a.toNat ≤ 0x2E) := by
  revert a; decide

theorem channel_regAt_rx {a : Addr} :
    (regAt a).channel = some .rx ↔ a = 0x02#8 ∨ (0x48 ≤ a.toNat ∧ a.toNat ≤ 0x52) := by
  revert a; decide

theorem channel_regAt_vf {a : Addr} : (regAt a).channel = some .vf ↔ a = 0x03#8 := by
  revert a; decide

/-! ## What an operation writes -/

/-- What an operation of a channel may load before it reports: nothing, or the channel's own outputs (10_state.md R23, R25). -/
inductive LoadsOutputs (s : State) : Channel → State → Prop where
  | nothing (c : Channel) : LoadsOutputs s c s
  | frame (frame : Vector Byte 15) : LoadsOutputs s .tx (loadFrame frame s)
  | telemetry (t : Telemetry) : LoadsOutputs s .rx (loadTelemetry t s)

/-- The codes an operation reports: success or the channel's one error (10_state.md R14 to R16). -/
def IsReport (code : BitVec 2) : Prop := code = codeOk ∨ code = codeError

theorem IsReport.ne_codeEmpty {code : BitVec 2} (h : IsReport code) : code ≠ codeEmpty := by
  rcases h with rfl | rfl <;> decide

theorem IsReport.ne_codeReserved {code : BitVec 2} (h : IsReport code) : code ≠ codeReserved := by
  rcases h with rfl | rfl <;> decide

/-- An operation leaves the state, or loads outputs of its own channel and reports there (10_state.md R17). -/
theorem exec_loads_then_reports {i : Instr} {s t : State} (h : exec i s = .next t) :
    t = s ∨
    ∃ c code u, i.channel = some c ∧ IsReport code ∧ LoadsOutputs s c u ∧ t = setStatus c code u := by
  rcases exec_cases h with ⟨_, rfl, rfl⟩ | ⟨_, rfl, _, rfl⟩ | ⟨_, rfl, _, rfl⟩ | ⟨_, rfl, _, rfl⟩ | ⟨_, rfl, _, rfl⟩ |
    ⟨_, rfl, _, rfl⟩ | ⟨_, rfl, _, rfl⟩
  · exact .inl rfl
  · exact .inr ⟨.tx, _, _, rfl, .inl rfl, .frame _, rfl⟩
  · exact .inr ⟨.tx, _, _, rfl, .inr rfl, .nothing _, rfl⟩
  · exact .inr ⟨.rx, _, _, rfl, .inl rfl, .telemetry _, rfl⟩
  · exact .inr ⟨.rx, _, _, rfl, .inr rfl, .nothing _, rfl⟩
  · exact .inr ⟨.vf, _, _, rfl, .inl rfl, .nothing _, rfl⟩
  · exact .inr ⟨.vf, _, _, rfl, .inr rfl, .nothing _, rfl⟩

/-- A register outside the channel reads the same after a report. -/
theorem readReg_setStatus {r : Reg} {c : Channel} (hr : r.channel ≠ some c) (code : BitVec 2) (s : State) :
    readReg r (setStatus c code s) = readReg r s := by
  cases r with
  | status c' => cases c <;> cases c' <;> first | rfl | exact absurd rfl hr
  | _ => cases c <;> rfl

/-- A register outside the channel reads the same after the channel's outputs are loaded. -/
theorem LoadsOutputs.readReg_eq {s u : State} {c : Channel} (h : LoadsOutputs s c u) {r : Reg} (hr : r.channel ≠ some c) :
    readReg r u = readReg r s := by
  cases h with
  | nothing => rfl
  | frame =>
    cases r with
    | status c => cases c <;> rfl
    | txFrame => exact absurd rfl hr
    | _ => rfl
  | telemetry =>
    cases r with
    | status c => cases c <;> rfl
    | tL5 | tL4 | tL3 | tL2Busy | tL2Done => exact absurd rfl hr
    | _ => rfl

/-- Registers outside an operation's channel read as before it (10_state.md R17). -/
theorem readReg_exec {i : Instr} {s t : State} (h : exec i s = .next t) {r : Reg}
    (hr : ∀ c, i.channel = some c → r.channel ≠ some c) : readReg r t = readReg r s := by
  rcases exec_loads_then_reports h with rfl | ⟨c, code, u, hc, -, hu, rfl⟩
  · rfl
  · rw [readReg_setStatus (hr c hc), hu.readReg_eq (hr c hc)]

/-- A status outside an operation's channel is as before it (10_state.md R17). -/
theorem statusOf_exec {i : Instr} {s t : State} (h : exec i s = .next t) {c : Channel} (hc : i.channel ≠ some c) :
    statusOf c t = statusOf c s := by
  have hr := readReg_exec h (r := .status c) (fun c' hi hs => hc (hi.trans hs.symm))
  simpa [readReg] using congrArg (BitVec.setWidth 2) hr

/-- Settles O37: what an operation loads and reports are outputs and a status. -/
theorem operationsWriteNoInputRegister : Obligations.OperationsWriteNoInputRegister := by
  intro i s t h
  rcases exec_loads_then_reports h with rfl | ⟨c, code, u, -, -, hu, rfl⟩
  · exact ⟨rfl, rfl, rfl, rfl, rfl, rfl, rfl, rfl, rfl⟩
  · cases hu with
    | nothing => cases c <;> exact ⟨rfl, rfl, rfl, rfl, rfl, rfl, rfl, rfl, rfl⟩
    | frame => exact ⟨rfl, rfl, rfl, rfl, rfl, rfl, rfl, rfl, rfl⟩
    | telemetry => exact ⟨rfl, rfl, rfl, rfl, rfl, rfl, rfl, rfl, rfl⟩

/-- An operation leaves the host's side of the port (10_state.md R10). -/
theorem port_exec {i : Instr} {s t : State} (h : exec i s = .next t) : t.port = s.port := by
  obtain ⟨-, -, -, -, -, -, -, -, hport⟩ := operationsWriteNoInputRegister i s t h
  exact hport

/-! ## What a transaction and a step write -/

/-- Everything a host write can do: the operation at CMD, elsewhere the register's write (20_memory.md R31). -/
theorem hostWrite_cases {a : Addr} {w : Word} {s t : State} (h : hostWrite a w s = .next t) :
    (a = 0x00#8 ∧ exec (decode w) s = .next t) ∨ (a ≠ 0x00#8 ∧ t = writeReg (regAt a) w s) := by
  by_cases ha : a = 0x00#8
  · subst ha
    exact .inl ⟨rfl, (hostWrite_cmd w s).symm.trans h⟩
  · rw [hostWrite_of_ne ha] at h
    cases h
    exact .inr ⟨ha, rfl⟩

/-- Everything a transaction can do when it answers a next state. -/
theorem transact_cases {b : Option Name} {x : Transaction} {s t : State} (h : transact b x s = .next t) :
    (∃ w, x = .write 0x00#8 w ∧ exec (decode w) s = .next t) ∨
    (∃ a w, x = .write a w ∧ a ≠ 0x00#8 ∧ t = writeReg (regAt a) w s) ∨
    (∃ a, x = .read a ∧ t = answer b (hostRead a s) s) ∨
    (x = .reset ∧ t = resetRegisters s) := by
  cases x with
  | write a w =>
    rcases hostWrite_cases (a := a) h with ⟨rfl, he⟩ | ⟨ha, rfl⟩
    · exact .inl ⟨w, rfl, he⟩
    · exact .inr (.inl ⟨a, w, rfl, ha, rfl⟩)
  | read a =>
    rw [transact] at h
    split at h
    · cases h
    · cases h
      exact .inr (.inr (.inl ⟨a, rfl, rfl⟩))
  | reset =>
    cases h
    exact .inr (.inr (.inr ⟨rfl, rfl⟩))

/-- A property that issuing a line, an operation, a register write, an answer and the
RESET event each keep is kept by every step (10_state.md R9). -/
theorem step_keeps {P : State → Prop}
    (issue : ∀ rest s, P s → P (withPending rest s))
    (operation : ∀ i s t, P s → exec i s = .next t → P t)
    (write : ∀ r d s, P s → P (writeReg r d s))
    (reply : ∀ b w s, P s → P (answer b w s))
    (reset : ∀ s, P (resetRegisters s))
    {s t : State} (hs : P s) (h : step s = .next t) : P t := by
  rcases step_cases h with ⟨-, rfl⟩ | ⟨l, rest, -, hl⟩
  · exact hs
  have hp := issue rest s hs
  rcases runLine_cases hl with ⟨a, d, w, -, -, hw⟩ | ⟨a, b, -, -, rfl⟩ | ⟨-, rfl⟩
  · rcases hostWrite_cases hw with ⟨-, he⟩ | ⟨-, rfl⟩
    · exact operation _ _ _ hp he
    · exact write _ _ _ hp
  · exact reply _ _ _ hp
  · exact reset _

/-! ## The bounds of the register table (10_state.md R14 to R20, R28) -/

/-- The bounds say nothing of the host's side. -/
theorem inBounds_setPort {s : State} (h : s.InBounds) (p : Port) : { s with port := p }.InBounds :=
  { h with }

theorem inBounds_setStatus {s : State} (h : s.InBounds) (c : Channel) {code : BitVec 2} (hc : code ≠ codeReserved) :
    (setStatus c code s).InBounds := by
  cases c with
  | tx => exact { h with txCode := hc }
  | rx => exact { h with rxCode := hc }
  | vf => exact { h with vfCode := hc }

theorem LoadsOutputs.inBounds {s u : State} {c : Channel} (hu : LoadsOutputs s c u) (h : s.InBounds) : u.InBounds := by
  cases hu with
  | nothing => exact h
  | frame => exact { h with }
  | telemetry => exact { h with }

theorem inBounds_exec {i : Instr} {s t : State} (h : s.InBounds) (he : exec i s = .next t) : t.InBounds := by
  rcases exec_loads_then_reports he with rfl | ⟨c, code, u, -, hcode, hu, rfl⟩
  · exact h
  · exact inBounds_setStatus (hu.inBounds h) c hcode.ne_codeReserved

/-- A clamped length is within its cap (20_memory.md R36). -/
theorem clampLen_le {w cap : Nat} (h : cap < 2 ^ w) (d : Word) : (clampLen w cap d).toNat ≤ cap := by
  rw [clampLen_toNat h]
  exact Nat.min_le_right _ _

/-- A write to an existing place of a verifier buffer leaves the places beyond VMAX zero (20_memory.md R34). -/
theorem bufferEnd_set {b : Vector Byte 64} (hb : ∀ j : Fin 64, Config.vmax ≤ j.val → b[j.val] = 0x00#8) {i : Fin 64}
    (hi : i.val < Config.vmax) (v : Byte) (j : Fin 64) (hj : Config.vmax ≤ j.val) :
    (b.set i.val v i.isLt)[j.val] = 0x00#8 := by
  rw [Vector.getElem_set_ne i.isLt j.isLt (by omega)]
  exact hb j hj

theorem inBounds_writeReg {s : State} (h : s.InBounds) (r : Reg) (d : Word) : (writeReg r d s).InBounds := by
  have hv : Config.vmax < 2 ^ 7 := Nat.lt_of_le_of_lt Config.vmax_le (by decide)
  cases r with
  | rxLen => exact { h with rxLen := clampLen_le (by decide) d }
  | expLen => exact { h with expLen := clampLen_le hv d }
  | rcvLen => exact { h with rcvLen := clampLen_le hv d }
  | expBuf i =>
    rcases Nat.lt_or_ge i.val Config.vmax with hi | hi
    · rw [writeReg_expBuf_of_lt hi]
      exact { h with expEnd := bufferEnd_set h.expEnd hi _ }
    · rwa [writeReg_expBuf_of_ge hi]
  | rcvBuf i =>
    rcases Nat.lt_or_ge i.val Config.vmax with hi | hi
    · rw [writeReg_rcvBuf_of_lt hi]
      exact { h with rcvEnd := bufferEnd_set h.rcvEnd hi _ }
    · rwa [writeReg_rcvBuf_of_ge hi]
  | _ => exact { h with }

theorem codeEmpty_ne_codeReserved : codeEmpty ≠ codeReserved := by decide

theorem inBounds_resetRegisters (s : State) : (resetRegisters s).InBounds where
  txCode := codeEmpty_ne_codeReserved
  rxCode := codeEmpty_ne_codeReserved
  vfCode := codeEmpty_ne_codeReserved
  rxLen := Nat.zero_le _
  expLen := Nat.zero_le _
  rcvLen := Nat.zero_le _
  expEnd i _ := Vector.getElem_replicate i.isLt
  rcvEnd i _ := Vector.getElem_replicate i.isLt

/-- Settles O50: each kind of write that a step is made of keeps the bounds. -/
theorem everyStepKeepsBounds : Obligations.EveryStepKeepsBounds := fun _ _ hs h =>
  step_keeps (P := State.InBounds)
    (issue := fun _ _ hs => inBounds_setPort hs _)
    (operation := fun _ _ _ => inBounds_exec)
    (write := fun r d _ hs => inBounds_writeReg hs r d)
    (reply := fun _ _ _ hs => inBounds_setPort hs _)
    (reset := inBounds_resetRegisters) hs h

/-! ## What an EMPTY status means (10_state.md R14, R15) -/

/-- Loading a channel's outputs and reporting there keeps the other channel, and the own status is not EMPTY any more. -/
theorem emptyMeansReset_report {s u : State} {c : Channel} (h : s.EmptyMeansReset) (hu : LoadsOutputs s c u)
    {code : BitVec 2} (hc : code ≠ codeEmpty) : (setStatus c code u).EmptyMeansReset := by
  cases hu with
  | nothing =>
    cases c with
    | tx => exact ⟨fun he => absurd he hc, h.rx⟩
    | rx => exact ⟨h.tx, fun he => absurd he hc⟩
    | vf => exact ⟨h.tx, h.rx⟩
  | frame => exact ⟨fun he => absurd he hc, h.rx⟩
  | telemetry => exact ⟨h.tx, fun he => absurd he hc⟩

theorem emptyMeansReset_exec {i : Instr} {s t : State} (h : s.EmptyMeansReset) (he : exec i s = .next t) :
    t.EmptyMeansReset := by
  rcases exec_loads_then_reports he with rfl | ⟨c, code, u, -, hcode, hu, rfl⟩
  · exact h
  · exact emptyMeansReset_report h hu hcode.ne_codeEmpty

/-- A register write reaches no status and no output (20_memory.md R31). -/
theorem emptyMeansReset_writeReg {s : State} (h : s.EmptyMeansReset) (r : Reg) (d : Word) :
    (writeReg r d s).EmptyMeansReset where
  tx := by simpa using h.tx
  rx := by simpa using h.rx

theorem emptyMeansReset_resetRegisters (s : State) : (resetRegisters s).EmptyMeansReset where
  tx _ := rfl
  rx _ := ⟨rfl, rfl, rfl, rfl, rfl⟩

/-- Settles O51: only an operation loads outputs, and it reports a code other than EMPTY. -/
theorem everyStepKeepsEmptyMeaning : Obligations.EveryStepKeepsEmptyMeaning := fun _ _ hs h =>
  step_keeps (P := State.EmptyMeansReset)
    (issue := fun _ _ hs => ⟨hs.tx, hs.rx⟩)
    (operation := fun _ _ _ => emptyMeansReset_exec)
    (write := fun r d _ hs => emptyMeansReset_writeReg hs r d)
    (reply := fun _ _ _ hs => ⟨hs.tx, hs.rx⟩)
    (reset := emptyMeansReset_resetRegisters) hs h

/-! ## The frames of the operations (10_state.md R10, R17) -/

/-- The frame of an operation, over addresses: a register of another channel or of none reads as before. -/
theorem hostRead_exec {i : Instr} {c : Channel} (hi : i.channel = some c) {s t : State} (h : exec i s = .next t) {a : Addr}
    (ha : (regAt a).channel ≠ some c) : hostRead a t = hostRead a s :=
  readReg_exec h (fun _ hc => Option.some.inj (hi.symm.trans hc) ▸ ha)

/-- Settles O20: the TX channel's registers stand at 0x01 and 0x20..0x2E. -/
theorem packChangesOnlyTxChannel : Obligations.PackChangesOnlyTxChannel := by
  intro g s t h
  refine ⟨port_exec h, fun a hne hout => hostRead_exec (c := .tx) rfl h ?_⟩
  rw [ne_eq, channel_regAt_tx]
  exact not_or.mpr ⟨hne, by omega⟩

/-- Settles O28: the RX channel's registers stand at 0x02 and 0x48..0x52. -/
theorem unpackChangesOnlyRxChannel : Obligations.UnpackChangesOnlyRxChannel := by
  intro g s t h
  refine ⟨port_exec h, fun a hne hout => hostRead_exec (c := .rx) rfl h ?_⟩
  rw [ne_eq, channel_regAt_rx]
  exact not_or.mpr ⟨hne, by omega⟩

/-- Settles O33: the VF channel's only register stands at 0x03. -/
theorem verifyChangesOnlyVfStatus : Obligations.VerifyChangesOnlyVfStatus := by
  intro g s t h
  refine ⟨port_exec h, fun a hne => hostRead_exec (c := .vf) rfl h ?_⟩
  rwa [ne_eq, channel_regAt_vf]

/-- Only a CMD write whose OP selects the channel's operation, or RESET, changes a channel's status (10_state.md R17). -/
theorem statusOf_transact {b : Option Name} {x : Transaction} {s t : State} (h : transact b x s = .next t) (hx : x ≠ .reset)
    (c : Channel) : statusOf c t = statusOf c s ∨ ∃ w, x = .write 0x00#8 w ∧ opOf w = c.opCode := by
  rcases transact_cases h with ⟨w, rfl, he⟩ | ⟨a, w, rfl, -, rfl⟩ | ⟨a, rfl, rfl⟩ | ⟨rfl, -⟩
  · by_cases hc : (decode w).channel = some c
    · exact .inr ⟨w, rfl, (opCode_decode w).symm.trans (opCode_eq_of_channel hc)⟩
    · exact .inl (statusOf_exec he hc)
  · left
    cases c <;> simp
  · left
    cases c <;> rfl
  · exact absurd rfl hx

/-- Settles O36: `statusOf_transact` for each channel. -/
theorem onlyItsOperationWritesAStatus : Obligations.OnlyItsOperationWritesAStatus := by
  intro b x s t h
  by_cases hx : x = .reset
  · exact .inl hx
  · exact .inr ⟨statusOf_transact h hx .tx, statusOf_transact h hx .rx, statusOf_transact h hx .vf⟩

/-! ## CMD and the step (10_state.md R9, R13) -/

/-- Settles O5: the two words select one operation, whatever their ignored bits. -/
theorem cmdPerformsAndHoldsNothing : Obligations.CmdPerformsAndHoldsNothing := by
  intro d s
  refine ⟨hostWrite_cmd d s, ?_, fun v hv => ?_⟩
  · rw [hostRead, regAt_zero, readReg]
  · rw [hostWrite_cmd, hostWrite_cmd]
    exact exec_eq_of_opCode_eq (by rwa [opCode_decode, opCode_decode]) s

/-- A step whose pending line is a write sends the datum's word. -/
theorem step_write {s : State} {a : Addr} {d : Datum} {w : Word} {rest : List Line} (hp : s.port.pending = .write a d :: rest)
    (hw : datumWord d s = .ok w) : step s = hostWrite a w (withPending rest s) := by
  rw [step_cons hp, runLine, datumWord_withPending, hw]
  rfl

/-- A step whose pending line is a read that does not stop answers the word. -/
theorem step_read {s : State} {a : Addr} {b : Option Name} {rest : List Line} (hp : s.port.pending = .read a b :: rest)
    (hc : reservedCodeAt a s = none) : step s = .next (answer b (hostRead a s) (withPending rest s)) := by
  rw [step_cons hp, runLine, transact, reservedCodeAt_withPending, hc, hostRead_withPending]

/-- A word's own 16 bits are the word again. -/
theorem tableWord_toNat (w : Word) : tableWord 16 w.toNat = w := by
  rw [tableWord, Nat.mod_eq_of_lt w.isLt, BitVec.ofNat_toNat, BitVec.setWidth_eq]

/-- Settles O6: such a step is the CMD write of the datum's word. -/
theorem stepRunsTheCommandWord : Obligations.StepRunsTheCommandWord := by
  constructor
  · intro s d w rest hp hw
    rw [step_write hp hw, hostWrite_cmd]
    rfl
  · intro s w
    have hs : step (s.withFetchWord 16 w.toNat) = hostWrite 0x00#8 (tableWord 16 w.toNat) s := step_write rfl rfl
    rw [hs, tableWord_toNat, hostWrite_cmd]

/-- Settles O7: one case per kind of pending line. -/
theorem stepIssuesOneTransaction : Obligations.StepIssuesOneTransaction := by
  intro s rest
  refine ⟨fun hp => ?_, fun a d w hp hw => step_write hp hw, fun a b hp hc => ?_, fun hp => ?_⟩
  · rw [step, nextLine, hp]
  · exact step_read hp (reservedCodeAt_eq_none hc)
  · exact step_cons hp

/-! ## The field registers (10_state.md R22) -/

theorem regAt_field (f : Field) : regAt (BitVec.ofNat 8 (0x10 + fieldIndex f)) = .field f :=
  regAt_addrOf rfl

/-- Settles O44: the address names the field's register, which stores the whole word. -/
theorem fieldRegistersAreNotTruncated : Obligations.FieldRegistersAreNotTruncated := by
  intro s f d
  have hne : BitVec.ofNat 8 (0x10 + fieldIndex f) ≠ 0x00#8 := by
    rw [ne_eq, ← regAt_cmd_iff, regAt_field]
    exact nofun
  refine ⟨_, hostWrite_of_ne hne d s, ?_, ?_, fun g hg => ?_⟩
  · rw [hostRead, regAt_field, writeReg_field_eq, readReg, FieldRegs.get_set_self]
  · rw [regAt_field, writeReg_field_eq, FieldRegs.get_set_self]
  · rw [regAt_field, writeReg_field_eq, FieldRegs.get_set_ne _ _ hg]

end Sys2Proof.Machine

/-!
PROOFS. The family 20_memory.md: which register each address names, what a host write stores there and what a host read
then returns (R30 to R40). A register is seen here through what it keeps of a write: a vacant place and an output keep
nothing, a byte register keeps d[7:0], a length register the clamped value, a field register the word.
-/

namespace Sys2Proof

/-- A place that is no register: a reserved address or a buffer place beyond VMAX (20_memory.md R33, R34). -/
def Reg.Vacant : Reg → Prop
  | .reserved => True
  | .expBuf i => Config.vmax ≤ i.val
  | .rcvBuf i => Config.vmax ≤ i.val
  | _ => False

/-- A register of 8 bits that the host writes (20_memory.md R35). -/
def Reg.HoldsByte : Reg → Prop
  | .ce _ => True
  | .rxBuf _ => True
  | .expBuf i => i.val < Config.vmax
  | .rcvBuf i => i.val < Config.vmax
  | _ => False

end Sys2Proof

namespace Sys2Proof.Machine

/-! ## From addresses to registers (20_memory.md R30) -/

/-- A host read at a register's address returns that register's word. -/
theorem hostRead_addrOf {r : Reg} {a : Addr} (h : addrOf r = some a) (s : State) : hostRead a s = readReg r s := by
  rw [hostRead, regAt_addrOf h]

/-- A host write at an address that names a register other than CMD is that register's write. -/
theorem hostWrite_of_regAt {r : Reg} {a : Addr} (h : regAt a = r) (hr : r ≠ .cmd) (d : Word) (s : State) :
    hostWrite a d s = .next (writeReg r d s) := by
  subst h
  exact hostWrite_of_ne (fun ha => hr (regAt_cmd_iff.mpr ha)) d s

/-- A host write at the address of a register other than CMD is that register's write. -/
theorem hostWrite_addrOf {r : Reg} {a : Addr} (h : addrOf r = some a) (hr : r ≠ .cmd) (d : Word) (s : State) :
    hostWrite a d s = .next (writeReg r d s) :=
  hostWrite_of_regAt (regAt_addrOf h) hr d s

theorem regAt_reserved_iff {a : Addr} :
    regAt a = .reserved ↔ a.toNat = 7 ∨ (0x1A ≤ a.toNat ∧ a.toNat ≤ 0x1F) ∨ a.toNat = 0x2F ∨
      (0x43 ≤ a.toNat ∧ a.toNat ≤ 0x47) ∨ (0x53 ≤ a.toNat ∧ a.toNat ≤ 0x7F) := by
  revert a; decide

theorem regAt_expBuf (i : Fin 64) : regAt (BitVec.ofNat 8 (0x80 + i.val)) = .expBuf i := regAt_addrOf rfl

theorem regAt_rcvBuf (i : Fin 64) : regAt (BitVec.ofNat 8 (0xC0 + i.val)) = .rcvBuf i := regAt_addrOf rfl

/-- The addresses of the vacant places (20_memory.md R33, R34). -/
theorem regAt_vacant {n : Nat}
    (h : n = 7 ∨ (0x1A ≤ n ∧ n ≤ 0x1F) ∨ n = 0x2F ∨ (0x43 ≤ n ∧ n ≤ 0x47) ∨ (0x53 ≤ n ∧ n ≤ 0x7F) ∨
      (0x80 + Config.vmax ≤ n ∧ n ≤ 0xBF) ∨ (0xC0 + Config.vmax ≤ n ∧ n ≤ 0xFF)) :
    (regAt (BitVec.ofNat 8 n)).Vacant := by
  rcases Nat.lt_or_ge n 0x80 with hn | hn
  · have hr : regAt (BitVec.ofNat 8 n) = .reserved := by
      rw [regAt_reserved_iff, BitVec.toNat_ofNat, Nat.mod_eq_of_lt (by omega)]
      omega
    rw [hr]
    trivial
  rcases Nat.lt_or_ge n 0xC0 with hc | hc
  · obtain ⟨k, rfl⟩ := Nat.exists_eq_add_of_le hn
    rw [regAt_expBuf ⟨k, by omega⟩]
    show Config.vmax ≤ k
    omega
  · obtain ⟨k, rfl⟩ := Nat.exists_eq_add_of_le hc
    rw [regAt_rcvBuf ⟨k, by omega⟩]
    show Config.vmax ≤ k
    omega

/-- The addresses of the byte registers (20_memory.md R30, R35). -/
theorem addrOf_holdsByte {n : Nat}
    (h : (0x08 ≤ n ∧ n ≤ 0x0F) ∨ (0x30 ≤ n ∧ n ≤ 0x42) ∨ (0x80 ≤ n ∧ n < 0x80 + Config.vmax) ∨
      (0xC0 ≤ n ∧ n < 0xC0 + Config.vmax)) :
    ∃ r : Reg, r.HoldsByte ∧ addrOf r = some (BitVec.ofNat 8 n) := by
  have hv := Config.vmax_le
  rcases h with ⟨hn, h⟩ | ⟨hn, h⟩ | ⟨hn, h⟩ | ⟨hn, h⟩ <;> obtain ⟨k, rfl⟩ := Nat.exists_eq_add_of_le hn
  · exact ⟨.ce ⟨k, by omega⟩, trivial, rfl⟩
  · exact ⟨.rxBuf ⟨k, by omega⟩, trivial, rfl⟩
  · exact ⟨.expBuf ⟨k, by omega⟩, Nat.lt_of_add_lt_add_left h, rfl⟩
  · exact ⟨.rcvBuf ⟨k, by omega⟩, Nat.lt_of_add_lt_add_left h, rfl⟩

/-! ## Places that keep nothing of a write (20_memory.md R31, R33, R34) -/

theorem readReg_of_vacant {r : Reg} (h : r.Vacant) (s : State) : readReg r s = 0x0000#16 := by
  cases r with
  | reserved => rfl
  | expBuf i => exact readReg_expBuf_of_ge h s
  | rcvBuf i => exact readReg_rcvBuf_of_ge h s
  | _ => exact h.elim

theorem writeReg_of_vacant {r : Reg} (h : r.Vacant) (d : Word) (s : State) : writeReg r d s = s := by
  cases r with
  | reserved => rfl
  | expBuf i => exact writeReg_expBuf_of_ge h d s
  | rcvBuf i => exact writeReg_rcvBuf_of_ge h d s
  | _ => exact h.elim

theorem hostRead_of_vacant {a : Addr} (h : (regAt a).Vacant) (s : State) : hostRead a s = 0x0000#16 :=
  readReg_of_vacant h s

theorem hostWrite_of_vacant {a : Addr} (h : (regAt a).Vacant) (d : Word) (s : State) : hostWrite a d s = .next s := by
  have hc : regAt a ≠ .cmd := fun hc => by rwa [hc] at h
  rw [hostWrite_of_regAt rfl hc, writeReg_of_vacant h]

/-- The outputs and statuses of the channels are read-only. -/
theorem writeReg_of_channel {r : Reg} {c : Channel} (h : r.channel = some c) (d : Word) (s : State) :
    writeReg r d s = s := by
  cases r with
  | status c | txFrame k | tL5 | tL4 | tL3 | tL2Busy w | tL2Done w => rfl
  | _ => cases h

theorem hostWrite_of_channel {a : Addr} {c : Channel} (h : (regAt a).channel = some c) (d : Word) (s : State) :
    hostWrite a d s = .next s := by
  have hc : regAt a ≠ .cmd := fun hc => by rw [hc] at h; cases h
  rw [hostWrite_of_regAt rfl hc, writeReg_of_channel h]

/-- The addresses of the read-only registers (20_memory.md R30). -/
theorem channel_regAt {a : Addr}
    (h : (1 ≤ a.toNat ∧ a.toNat ≤ 3) ∨ (0x20 ≤ a.toNat ∧ a.toNat ≤ 0x2E) ∨ (0x48 ≤ a.toNat ∧ a.toNat ≤ 0x52)) :
    ∃ c, (regAt a).channel = some c := by
  rw [← Option.isSome_iff_exists]
  revert a; decide

/-- Settles O41: these addresses are vacant. -/
theorem reservedAddressesHoldNothing : Obligations.ReservedAddressesHoldNothing := by
  constructor
  · intro s d n hn
    have hv := regAt_vacant (n := n) (by omega)
    exact ⟨hostRead_of_vacant hv s, hostWrite_of_vacant hv d s⟩
  · intro s d i hi hi64
    have he := regAt_vacant (n := 0x7F + i) (by omega)
    have hr := regAt_vacant (n := 0xBF + i) (by omega)
    exact ⟨hostRead_of_vacant he s, hostWrite_of_vacant he d s, hostRead_of_vacant hr s, hostWrite_of_vacant hr d s⟩

/-! ## What a register keeps of a write (20_memory.md R35, R36) -/

/-- A byte register reads back d[7:0] (20_memory.md R35). -/
theorem readReg_writeReg_of_holdsByte {r : Reg} (h : r.HoldsByte) (d : Word) (s : State) :
    readReg r (writeReg r d s) = d &&& 0x00FF#16 := by
  rw [← setWidth_lowByte]
  cases r with
  | ce k => rw [writeReg_ce_eq, readReg, Vector.getElem_set_self]
  | rxBuf k => rw [writeReg_rxBuf_eq, readReg, Vector.getElem_set_self]
  | expBuf i => rw [writeReg_expBuf_of_lt h, readReg_expBuf_of_lt h, Vector.getElem_set_self]
  | rcvBuf i => rw [writeReg_rcvBuf_of_lt h, readReg_rcvBuf_of_lt h, Vector.getElem_set_self]
  | _ => exact h.elim

/-- Settles O42: the address names a byte register. -/
theorem byteWritesKeepTheLowByte : Obligations.ByteWritesKeepTheLowByte := by
  intro s d n hn
  obtain ⟨r, hr, ha⟩ := addrOf_holdsByte hn
  have hc : r ≠ .cmd := fun hc => by rwa [hc] at hr
  refine ⟨_, hostWrite_addrOf ha hc d s, ?_, writeReg_txStatus r d s, writeReg_rxStatus r d s, writeReg_vfStatus r d s⟩
  rw [hostRead_addrOf ha, readReg_writeReg_of_holdsByte hr]

/-- A length register reads back the clamped value (20_memory.md R36). -/
theorem clampLen_setWidth_toNat {w cap : Nat} (h : cap < 2 ^ w) (hw : w ≤ 16) (d : Word) :
    ((clampLen w cap d).setWidth 16).toNat = min d.toNat cap := by
  rw [BitVec.toNat_setWidth_of_le hw, clampLen_toNat h]

/-- VMAX fits the 7 bits of a verifier length (00_scope.md R5). -/
theorem vmax_lt_length : Config.vmax < 2 ^ 7 := Nat.lt_of_le_of_lt Config.vmax_le (by decide)

/-- Settles O43: the three registers store `clampLen` of the word, each with its own capacity. -/
theorem lengthsAreClampedAndReadBack : Obligations.LengthsAreClampedAndReadBack := fun s d =>
  ⟨⟨_, hostWrite_addrOf (r := .rxLen) rfl nofun d s, clampLen_toNat (by decide) d,
      clampLen_setWidth_toNat (by decide) (by decide) d⟩,
    ⟨_, hostWrite_addrOf (r := .expLen) rfl nofun d s, clampLen_toNat vmax_lt_length d,
      clampLen_setWidth_toNat vmax_lt_length (by decide) d⟩,
    ⟨_, hostWrite_addrOf (r := .rcvLen) rfl nofun d s, clampLen_toNat vmax_lt_length d,
      clampLen_setWidth_toNat vmax_lt_length (by decide) d⟩⟩

/-! ## The map, address by address (20_memory.md R31, R32) -/

theorem lowByte_eq_extractLsb' (d : Word) : lowByte d = d.extractLsb' 0 8 := by
  rw [lowByte, BitVec.setWidth_eq_extractLsb' (by decide)]

/-- Settles O39: one case per row of R31. -/
theorem hostWriteEffects : Obligations.HostWriteEffects := by
  intro d s
  rw [← lowByte_eq_extractLsb']
  refine ⟨hostWrite_cmd d s, fun f => hostWrite_addrOf (r := .field f) rfl nofun d s,
    fun k => hostWrite_addrOf (r := .ce k) rfl nofun d s, fun k => hostWrite_addrOf (r := .rxBuf k) rfl nofun d s,
    fun i hi => ?_, fun i hi => ?_, hostWrite_addrOf (r := .rxLen) rfl nofun d s,
    hostWrite_addrOf (r := .expLen) rfl nofun d s, hostWrite_addrOf (r := .rcvLen) rfl nofun d s, fun n hn => ?_,
    fun n hn => hostWrite_of_vacant (regAt_vacant hn) d s⟩
  · rw [hostWrite_of_regAt (regAt_expBuf i) nofun, writeReg_expBuf_of_lt hi]
  · rw [hostWrite_of_regAt (regAt_rcvBuf i) nofun, writeReg_rcvBuf_of_lt hi]
  · have hm : n % 2 ^ 8 = n := Nat.mod_eq_of_lt (by omega)
    obtain ⟨c, hc⟩ := channel_regAt (a := BitVec.ofNat 8 n) (by rwa [BitVec.toNat_ofNat, hm])
    exact hostWrite_of_channel hc d s

/-- A read that completes answers the register's word and does nothing else (20_memory.md R32). -/
theorem transact_read {a : Addr} {b : Option Name} {s t : State} (h : transact b (.read a) s = .next t) :
    t = answer b (hostRead a s) s := by
  rcases transact_cases h with ⟨_, hx, -⟩ | ⟨_, _, hx, -, -⟩ | ⟨_, hx, rfl⟩ | ⟨hx, -⟩ <;> cases hx
  rfl

/-- Settles O40: one case per row of R32. -/
theorem hostReadValues : Obligations.HostReadValues := by
  intro s
  refine ⟨hostRead_addrOf (r := .cmd) rfl s, hostRead_addrOf (r := .status .tx) rfl s,
    hostRead_addrOf (r := .status .rx) rfl s, hostRead_addrOf (r := .status .vf) rfl s,
    hostRead_addrOf (r := .rxLen) rfl s, hostRead_addrOf (r := .expLen) rfl s, hostRead_addrOf (r := .rcvLen) rfl s,
    fun k => hostRead_addrOf (r := .ce k) rfl s, fun f => hostRead_addrOf (r := .field f) rfl s,
    fun k => hostRead_addrOf (r := .txFrame k) rfl s, fun k => hostRead_addrOf (r := .rxBuf k) rfl s,
    hostRead_addrOf (r := .tL5) rfl s, hostRead_addrOf (r := .tL4) rfl s, hostRead_addrOf (r := .tL3) rfl s,
    fun w => hostRead_addrOf (r := .tL2Busy w) rfl s, fun w => hostRead_addrOf (r := .tL2Done w) rfl s,
    fun i hi => ?_, fun i hi => ?_, fun n hn => hostRead_of_vacant (regAt_vacant hn) s, fun a b t h => ?_⟩
  · rw [hostRead, regAt_expBuf, readReg_expBuf_of_lt hi]
  · rw [hostRead, regAt_rcvBuf, readReg_rcvBuf_of_lt hi]
  · rw [transact_read h]
    rfl

/-! ## Locality and idempotence (20_memory.md R38) -/

theorem FieldRegs.set_set (r : FieldRegs) (f : Field) (v w : Word) : (r.set f v).set f w = r.set f w := by
  cases f <;> rfl

/-- Of two writes to one register the second counts alone. -/
theorem writeReg_writeReg_self (r : Reg) (d e : Word) (s : State) : writeReg r e (writeReg r d s) = writeReg r e s := by
  cases r with
  | ce k => simp
  | rxBuf k => simp
  | field f => simp [FieldRegs.set_set]
  | expBuf i =>
    rcases Nat.lt_or_ge i.val Config.vmax with hi | hi
    · simp [writeReg_expBuf_of_lt hi]
    · simp [writeReg_expBuf_of_ge hi]
  | rcvBuf i =>
    rcases Nat.lt_or_ge i.val Config.vmax with hi | hi
    · simp [writeReg_rcvBuf_of_lt hi]
    · simp [writeReg_rcvBuf_of_ge hi]
  | _ => rfl

theorem getElem_set_of_fin_ne {n : Nat} (b : Vector Byte n) {i j : Fin n} (h : j ≠ i) (v : Byte) :
    (b.set i.val v i.isLt)[j.val] = b[j.val] :=
  Vector.getElem_set_ne i.isLt j.isLt (fun he => h (Fin.ext he.symm))

/-- A write to one register leaves every other reading as before. -/
theorem readReg_writeReg_ne {q r : Reg} (h : q ≠ r) (d : Word) (s : State) : readReg q (writeReg r d s) = readReg q s := by
  cases r with
  | rxLen | expLen | rcvLen =>
    cases q with
    | status c => cases c <;> rfl
    | rxLen | expLen | rcvLen => first | rfl | exact absurd rfl h
    | _ => rfl
  | ce k =>
    cases q with
    | status c => cases c <;> rfl
    | ce j => rw [writeReg_ce_eq, readReg, readReg, getElem_set_of_fin_ne _ (mt (congrArg Reg.ce) h)]
    | _ => rfl
  | field f =>
    cases q with
    | status c => cases c <;> rfl
    | field g => exact FieldRegs.get_set_ne s.fields d (mt (congrArg Reg.field) h)
    | _ => rfl
  | rxBuf k =>
    cases q with
    | status c => cases c <;> rfl
    | rxBuf j => rw [writeReg_rxBuf_eq, readReg, readReg, getElem_set_of_fin_ne _ (mt (congrArg Reg.rxBuf) h)]
    | _ => rfl
  | expBuf i =>
    rw [writeReg_expBuf_eq]
    split
    · cases q with
      | status c => cases c <;> rfl
      | expBuf j => rw [readReg, readReg, getElem_set_of_fin_ne _ (mt (congrArg Reg.expBuf) h)]
      | _ => rfl
    · rfl
  | rcvBuf i =>
    rw [writeReg_rcvBuf_eq]
    split
    · cases q with
      | status c => cases c <;> rfl
      | rcvBuf j => rw [readReg, readReg, getElem_set_of_fin_ne _ (mt (congrArg Reg.rcvBuf) h)]
      | _ => rfl
    · rfl
  | _ => rfl

/-- A register write leaves every address but the register's own reading as before; reserved places share one name and read as
zero. -/
theorem hostRead_writeReg_regAt {a b : Addr} (h : b ≠ a) (d : Word) (s : State) :
    hostRead b (writeReg (regAt a) d s) = hostRead b s := by
  by_cases hb : regAt b = .reserved
  · rw [hostRead, hostRead, hb, readReg, readReg]
  · exact readReg_writeReg_ne (fun he => h (regAt_injective he hb)) d s

/-- Settles O45: two addresses name two registers, a second write of one register counts alone, and a read only answers. -/
theorem hostAccessHasNoSideEffects : Obligations.HostAccessHasNoSideEffects := by
  constructor
  · intro a d s t ha h
    rw [hostWrite_of_ne ha] at h
    cases h
    exact ⟨fun b hb => hostRead_writeReg_regAt hb d s, by rw [hostWrite_of_ne ha, writeReg_writeReg_self]⟩
  · intro a b s t h
    cases transact_read h
    exact ⟨fun x => hostRead_answer x _ _ s, rfl, _, rfl, (hostRead_answer a _ _ s).symm⟩

/-! ## The words of the 64-bit telemetry registers (20_memory.md R40) -/

/-- Bit 15 - b of word w is cluster 16w + b + 1, the most significant first (20_memory.md R40). -/
theorem l2Word_getLsbD (r : BitVec 64) (w : Fin 4) (b : Fin 16) :
    (l2Word r w).getLsbD (15 - b.val) = r.getLsbD (64 - (16 * w.val + b.val + 1)) := by
  have hb : 15 - b.val < 16 := by omega
  have hi : 48 - 16 * w.val + (15 - b.val) = 64 - (16 * w.val + b.val + 1) := by omega
  rw [l2Word, BitVec.getLsbD_extractLsb', hi, decide_eq_true hb, Bool.true_and]

/-- Word 0 of the busy bits is the bytes RX_BUF[4] and RX_BUF[5] (20_memory.md R40, 40_frame_codec.md R65). -/
theorem l2Word_zero_telemetryOf (b : Vector Byte 19) : l2Word (telemetryOf b).l2Busy 0 = b[3] ++ b[4] := by
  apply BitVec.eq_of_getLsbD_eq
  intro i hi
  have hb := join8_getLsbD b[3] b[4] b[5] b[6] b[7] b[8] b[9] b[10] (48 + i)
  rw [l2Word, BitVec.getLsbD_extractLsb', telemetryOf, join2_getLsbD]
  refine (congrArg _ hb).trans ?_
  interval_cases i <;> rfl

/-- UNPACK reports VALID only where it loads the telemetry of RX_BUF (40_frame_codec.md R65). -/
theorem exec_unpack_valid {g : BitVec 14} {s t : State} (h : exec (.unpack g) s = .next t) (hv : t.rxStatus = codeOk) :
    t = setStatus .rx codeOk (loadTelemetry (telemetryOf s.rxBuf) s) := by
  rcases Nat.lt_or_ge s.rxLen.toNat 19 with hl | hl
  · rw [exec_unpack_short g hl] at h
    cases h
    exact absurd hv (show codeError ≠ codeOk by decide)
  · rw [exec_unpack_full g hl] at h
    exact (Host.Outcome.next.inj h).symm

/-- Settles O27: `l2Word_getLsbD` at the eight addresses, and word 0 of what a successful UNPACK loads. -/
theorem telemetryWordsMostSignificantFirst : Obligations.TelemetryWordsMostSignificantFirst := by
  have hbusy (s : State) (w : Fin 4) : hostRead (BitVec.ofNat 8 (0x4B + w.val)) s = l2Word s.tL2Busy w :=
    hostRead_addrOf (r := .tL2Busy w) rfl s
  have hdone (s : State) (w : Fin 4) : hostRead (BitVec.ofNat 8 (0x4F + w.val)) s = l2Word s.tL2Done w :=
    hostRead_addrOf (r := .tL2Done w) rfl s
  refine ⟨fun s w => ⟨hbusy s w, hdone s w⟩, fun s w b => ⟨?_, ?_⟩, fun g s t h hv => ?_⟩
  · rw [hbusy, l2Word_getLsbD, l2ClusterBusy]
  · rw [hdone, l2Word_getLsbD, l2ClusterDone]
  · cases exec_unpack_valid h hv
    exact (hbusy _ 0).trans (l2Word_zero_telemetryOf s.rxBuf)

end Sys2Proof.Machine

/-!
PROOFS. The family 30_encoding.md: the command word both ways (R46, R47), the bits of the two frames (R49 to R57), the lines
of a program as steps and the expansions of the loading lines (R59, R60). A frame is seen here through its bit stream.
-/

namespace Sys2Proof.Machine

open Sys2Proof.Laws.EncodedOp (opCode ignoredBits fields_of_append)

/-! ## The command word (30_encoding.md R46, R47) -/

theorem wellFormed_eq_true (i : Instr) : i.wellFormed = true := by
  cases i <;> rfl

/-- OP stands in bits [1:0], the ignored bits above it. -/
theorem encode_eq_append (i : Instr) : encode i = ignoredBits i ++ opCode i := by
  cases i <;> rfl

/-- The two fields of a command word are the whole word. -/
theorem ignoredOf_append_opOf (w : Word) : ignoredOf w ++ opOf w = w :=
  BitVec.extractLsb'_append_extractLsb'

theorem ignoredBits_decode (w : Word) : ignoredBits (decode w) = ignoredOf w := by
  unfold decode
  split_ifs <;> rfl

/-- OP and the ignored bits determine an instruction. -/
theorem instr_ext {i j : Instr} (hop : opCode i = opCode j) (hbits : ignoredBits i = ignoredBits j) : i = j := by
  cases i <;> cases j <;> cases hop <;> cases hbits <;> rfl

/-- Settles O1: an instruction and its word are the same two fields, OP and the ignored bits. -/
theorem commandWordRoundTrip : Obligations.CommandWordRoundTrip := by
  constructor
  · intro i _
    obtain ⟨hop, hbits⟩ := fields_of_append (ignoredBits i) (opCode i)
    rw [← encode_eq_append] at hop hbits
    exact instr_ext (by rw [opCode_decode, hop]) (by rw [ignoredBits_decode, hbits])
  · intro w
    rw [encode_eq_append, opCode_decode, ignoredBits_decode, ignoredOf_append_opOf]

/-- Settles O4: `exec` follows OP alone. -/
theorem opAloneSelectsTheOperation : Obligations.OpAloneSelectsTheOperation := by
  intro w v hwv s
  have h : exec (decode w) s = exec (decode v) s := exec_eq_of_opCode_eq (by rwa [opCode_decode, opCode_decode]) s
  exact ⟨h, by rw [hostWrite_cmd, hostWrite_cmd, h]⟩

/-- A word whose OP is an instruction's and whose ignored bits it carries decodes to it. -/
theorem decode_eq_of_opOf {w : Word} {i : Instr} (hop : opOf w = opCode i) (hbits : ignoredBits i = ignoredOf w) :
    decode w = i :=
  instr_ext ((opCode_decode w).trans hop) ((ignoredBits_decode w).trans hbits.symm)

/-- Settles O2: one case per OP code. -/
theorem everyWordSelectsOneOperation : Obligations.EveryWordSelectsOneOperation := by
  intro w
  refine ⟨fun h => decode_eq_of_opOf h rfl, fun h => decode_eq_of_opOf h rfl, fun h => decode_eq_of_opOf h rfl,
    fun h => decode_eq_of_opOf h rfl, wellFormed_eq_true _, ?_⟩
  rw [decodeTableWord, if_pos (Nat.le_refl 16), tableWord_toNat]

/-- Settles O3: seven words evaluated. -/
theorem writtenOutWordsDecode : Obligations.WrittenOutWordsDecode := by
  unfold Obligations.WrittenOutWordsDecode
  decide

/-! ## The stops of a step (30_encoding.md R59; log 6, log 7) -/

/-- Only a name that no read gave has no word. -/
theorem datumWord_error {d : Datum} {s : State} {r : Refusal} (h : datumWord d s = .error r) :
    ∃ n, d = .named n ∧ lookupName n s.port.replies = none ∧ r = .unboundName n := by
  cases d with
  | lit w => cases h
  | named n =>
    rw [datumWord] at h
    split at h
    · cases h
    · cases h
      exact ⟨n, rfl, ‹_›, rfl⟩

/-- Only a read of a status register that holds the reserved code faults. -/
theorem runLine_fault {l : Line} {s : State} {r : Fault} (h : runLine l s = .fault r) :
    ∃ a b c, l = .read a b ∧ regAt a = .status c ∧ statusOf c s = codeReserved ∧ r = .reservedStatusCode c := by
  cases l with
  | write a d =>
    rw [runLine] at h
    split at h
    · next w _ =>
      obtain ⟨t, ht⟩ := hostWrite_total a w s
      cases ht.symm.trans h
    · cases h
  | read a b =>
    rw [runLine, transact] at h
    split at h
    · next c hc =>
      cases h
      obtain ⟨hr, hs⟩ := reservedCodeAt_eq_some hc
      exact ⟨a, b, c, rfl, hr, hs, rfl⟩
    · cases h
  | reset => cases h

/-- Only a write of a name that no read gave is refused. -/
theorem runLine_refused {l : Line} {s : State} {r : Refusal} (h : runLine l s = .refused r) :
    ∃ a n, l = .write a (.named n) ∧ lookupName n s.port.replies = none ∧ r = .unboundName n := by
  cases l with
  | write a d =>
    rw [runLine] at h
    split at h
    · next w _ =>
      obtain ⟨t, ht⟩ := hostWrite_total a w s
      cases ht.symm.trans h
    · next hd =>
      cases h
      obtain ⟨n, rfl, hn, hr⟩ := datumWord_error hd
      exact ⟨a, n, rfl, hn, hr⟩
  | read a b =>
    rw [runLine, transact] at h
    split at h <;> cases h
  | reset => cases h

/-- A step that stops has a pending line, and that line stops. -/
theorem step_stops {s : State} (h : ∀ t, step s ≠ .next t) :
    ∃ l rest, s.port.pending = l :: rest ∧ step s = runLine l (withPending rest s) := by
  cases hp : s.port.pending with
  | nil => exact absurd (by rw [step, nextLine, hp]) (h s)
  | cons l rest => exact ⟨l, rest, rfl, step_cons hp⟩

@[simp] theorem statusOf_withPending (c : Channel) (rest : List Line) (s : State) :
    statusOf c (withPending rest s) = statusOf c s := by
  cases c <;> rfl

theorem reservedCodeAt_of_status {a : Addr} {c : Channel} {s : State} (ha : regAt a = .status c)
    (hs : statusOf c s = codeReserved) : reservedCodeAt a s = some c := by
  simp [reservedCodeAt, ha, hs]

/-- Settles O8: the line of a step that stops is one of the two, and each of the two stops. -/
theorem stepStopsOnlyAsNamed : Obligations.StepStopsOnlyAsNamed := by
  refine ⟨fun s r h => ?_, fun s r h => ?_, fun s rest => ⟨fun a n hp hn => ?_, fun a b c hp ha hs => ?_⟩⟩
  · obtain ⟨l, rest, hp, hl⟩ := step_stops (s := s) (by simp [h])
    obtain ⟨a, b, c, rfl, ha, hs, rfl⟩ := runLine_fault (hl.symm.trans h)
    exact ⟨a, b, c, rest, hp, ha, (statusOf_withPending c rest s).symm.trans hs, rfl⟩
  · obtain ⟨l, rest, hp, hl⟩ := step_stops (s := s) (by simp [h])
    obtain ⟨a, n, rfl, hn, rfl⟩ := runLine_refused (hl.symm.trans h)
    exact ⟨a, n, rest, hp, hn, rfl⟩
  · rw [step_cons hp, runLine, datumWord_withPending, datumWord, hn]
  · rw [step_cons hp, runLine, transact, reservedCodeAt_withPending, reservedCodeAt_of_status ha hs]

/-! ## Frames as bit streams (00_scope.md R8) -/

/-- Bit `i` of byte `k` is stream bit `8k + 7 - i`. -/
theorem getLsbD_getElem_eq_streamBit {n : Nat} (F : Vector Byte n) {k i : Nat} (hk : k < n) (hi : i < 8) :
    F[k].getLsbD i = streamBit F (8 * k + (7 - i)) := by
  have hdiv : (8 * k + (7 - i)) / 8 = k := by omega
  have hmod : 7 - (8 * k + (7 - i)) % 8 = i := by omega
  rw [streamBit, hdiv, hmod, byteAt_of_lt _ hk]

/-- Two bytes with the same stream bits are equal. -/
theorem getElem_eq_of_streamBit {n m : Nat} {F : Vector Byte n} {G : Vector Byte m} {k : Nat} (hF : k < n) (hG : k < m)
    (h : ∀ i, i < 8 → streamBit F (8 * k + i) = streamBit G (8 * k + i)) : F[k] = G[k] := by
  apply BitVec.eq_of_getLsbD_eq
  intro i hi
  rw [getLsbD_getElem_eq_streamBit F hF hi, getLsbD_getElem_eq_streamBit G hG hi, h _ (by omega)]

/-! ## What PACK writes (30_encoding.md R49 to R54) -/

/-- The bounds of R62 are the range checks of the default table (40_frame_codec.md R62). -/
theorem fit_iff_allInRange (s : State) : s.fields.Fit ↔ allInRange Config.fieldTable s = true := by
  simp only [allInRange_default, inRange, Bool.and_eq_true, decide_eq_true_eq]
  constructor
  · rintro ⟨_, _, _, _, _, _, _, _, _, _⟩
    omega
  · rintro ⟨_, _, _, _, _, _, _, _, _, _⟩
    constructor <;> omega

/-- A field in range has no bit at or above its width. -/
theorem field_getLsbD_eq_false {T : FieldTable} {s : State} (h : allInRange T s = true) {r : FieldRow} (hr : r ∈ T) {i : Nat}
    (hi : r.width ≤ i) : (s.fields.get r.field).getLsbD i = false := by
  have hw : (s.fields.get r.field).toNat < 2 ^ r.width := by
    simpa [inRange] using List.all_eq_true.mp h r hr
  exact getLsbD_eq_false_of_inRange hw hi

/-- PACK of an in-range configuration (40_frame_codec.md R61). -/
theorem exec_pack_of_fit (g : BitVec 14) {s : State} (h : s.fields.Fit) :
    exec (.pack g) s = .next (setStatus .tx codeOk (loadFrame (configFrame Config.fieldTable s) s)) := by
  rw [exec_pack, packWith_of_inRange ((fit_iff_allInRange s).mp h)]

/-- The clock-enable bits open the frame's stream (30_encoding.md R49). -/
theorem streamBit_configFrame_of_lt (T : FieldTable) (s : State) {j : Nat} (h : j < 64) :
    streamBit (configFrame T s) j = streamBit s.ce j := by
  rw [streamBit_configFrame T s (by omega), configBit_of_lt T s h]

/-- The rows of a legal table lie inside stream bits 64..119 (30_encoding.md R54). -/
theorem legal_row_bounds {T : FieldTable} (hT : T.legal) {r : FieldRow} (hr : r ∈ T) :
    64 ≤ r.offset ∧ r.offset + r.width ≤ 120 := by
  obtain ⟨-, -, hb, -⟩ := hT
  exact hb r hr

/-- A legal table has `pll_clkr` where 30_encoding.md R51 has it. -/
theorem legal_clkr {T : FieldTable} (hT : T.legal) : (⟨.clkr, 4, 70⟩ : FieldRow) ∈ T := by
  obtain ⟨-, -, -, hc⟩ := hT
  exact hc

/-- A field stands MSB-first at its stream offset (30_encoding.md R50). -/
theorem streamBit_configFrame_of_row {T : FieldTable} (hT : T.legal) (s : State) {r : FieldRow} (hr : r ∈ T) {i : Nat}
    (hi : i < r.width) :
    streamBit (configFrame T s) (r.offset + i) = (s.fields.get r.field).getLsbD (r.width - 1 - i) := by
  obtain ⟨-, hend⟩ := legal_row_bounds hT hr
  rw [streamBit_configFrame T s (by omega), configBit_of_row hT s hr hi]

/-- Settles O13: the written-out rows are the rows of the default table. -/
theorem packPlacesFieldsMsbFirst : Obligations.PackPlacesFieldsMsbFirst := by
  intro g s hs
  refine ⟨_, exec_pack_of_fit g hs, fun row hrow j hj => ?_⟩
  obtain ⟨r, hr, rfl⟩ :=
    List.mem_map.mp (show row ∈ Config.fieldTable.map (fun r => (s.fields.get r.field, r.width, r.offset)) from hrow)
  exact streamBit_configFrame_of_row fieldTable_legal s hr hj

/-- Settles O14: the first 64 stream bits, byte by byte. -/
theorem packCopiesClockEnables : Obligations.PackCopiesClockEnables := by
  intro g s hs
  have hce : ∀ k : Fin 8, (configFrame Config.fieldTable s)[k.val] = s.ce[k.val] := fun k =>
    getElem_eq_of_streamBit (by omega) k.isLt (fun i hi => streamBit_configFrame_of_lt _ s (by omega))
  refine ⟨_, exec_pack_of_fit g hs, hce, fun c => ⟨streamBit_configFrame_of_lt _ s c.isLt, ?_⟩⟩
  have hbyte := hce ⟨c.val / 8, by omega⟩
  rw [clusterEnabled, byteAt_of_lt _ (by omega)]
  exact congrArg (fun b : Byte => b.getLsbD (7 - c.val % 8)) hbyte.symm

/-- Value bit `m` of a field at the byte and bit where its place puts it. -/
theorem configFrame_getLsbD_of_row {T : FieldTable} (hT : T.legal) (s : State) {r : FieldRow} (hr : r ∈ T) {k i m : Nat}
    (hk : k < 15) (hi : i < 8) (hm : m < r.width) (h : 8 * k + (7 - i) + m + 1 = r.offset + r.width) :
    (configFrame T s)[k].getLsbD i = (s.fields.get r.field).getLsbD m := by
  have hj : 8 * k + (7 - i) = r.offset + (r.width - 1 - m) := by omega
  have hm' : r.width - 1 - (r.width - 1 - m) = m := by omega
  rw [getLsbD_getElem_eq_streamBit _ hk hi, hj, streamBit_configFrame_of_row hT s hr (by omega), hm']

/-- Settles O15: `pll_clkr` stands at stream bits 70..73, the last two of byte 9 and the first two of byte 10. -/
theorem clkrSplitInEveryLegalTable : Obligations.ClkrSplitInEveryLegalTable := by
  refine ⟨fieldTable_legal, fun T s hT hr => ?_⟩
  rw [packWith_of_inRange hr]
  constructor
  · apply BitVec.eq_of_getLsbD_eq
    intro i hi
    rw [BitVec.getLsbD_extractLsb', BitVec.getLsbD_extractLsb']
    exact congrArg _ (configFrame_getLsbD_of_row hT s (legal_clkr hT) (by decide) (by omega)
      (show 2 + i < 4 by omega) (by simp only; omega))
  · apply BitVec.eq_of_getLsbD_eq
    intro i hi
    rw [BitVec.getLsbD_extractLsb', BitVec.getLsbD_extractLsb']
    exact congrArg _ (configFrame_getLsbD_of_row hT s (legal_clkr hT) (by decide) (by omega)
      (show 0 + i < 4 by omega) (by simp only; omega))

/-! ## The frame as the closed formulas give it (30_encoding.md R53) -/

/-- A word shifted past a small one shares no bit with it. -/
theorem shiftLeft_and_eq_zero (x : Word) {y : Word} {n : Nat} (h : y.toNat < 2 ^ n) : x <<< n &&& y = 0 := by
  apply BitVec.eq_of_getLsbD_eq
  intro i hi
  rcases Nat.lt_or_ge i n with hn | hn
  · simp [hn]
  · simp [getLsbD_eq_false_of_inRange h hn]

/-- The fifteen bytes of 30_encoding.md R53. -/
def formulaFrame (ce : Vector Byte 8) (r : FieldRegs) : Vector Byte 15 :=
  #v[ce[0], ce[1], ce[2], ce[3], ce[4], ce[5], ce[6], ce[7],
    ((r.clkf <<< 2) ||| (r.clkr >>> 2)).setWidth 8,
    (((r.clkr &&& 0x3#16) <<< 6) ||| (r.clkod <<< 2) ||| (r.bwadj >>> 6)).setWidth 8,
    (((r.bwadj &&& 0x3F#16) <<< 2) ||| (r.chipX >>> 3)).setWidth 8,
    (((r.chipX &&& 0x7#16) <<< 5) ||| r.chipY).setWidth 8,
    (r.delay >>> 2).setWidth 8,
    (((r.delay &&& 0x3#16) <<< 6) ||| (r.width <<< 1) ||| (r.mask >>> 7)).setWidth 8,
    (((r.mask &&& 0x7F#16) <<< 1) ||| r.debugMode).setWidth 8]

theorem streamBit_formulaFrame_of_lt (ce : Vector Byte 8) (r : FieldRegs) {j : Nat} (h : j < 64) :
    streamBit (formulaFrame ce r) j = streamBit ce j := by
  have hbyte : ∀ k (hk : k < 8), (formulaFrame ce r)[k] = ce[k] := by
    intro k hk
    interval_cases k <;> rfl
  have hk : j / 8 < 8 := by omega
  rw [streamBit, streamBit, byteAt_of_lt _ (by omega), byteAt_of_lt _ hk, hbyte]

/-- The formulas place every in-range field MSB-first at its offset; the bits above a field's width, which the
formulas do not mask, are zero. -/
theorem streamBit_formulaFrame_of_row {s : State} (hs : allInRange Config.fieldTable s = true) {r : FieldRow}
    (hr : r ∈ Config.fieldTable) {i : Nat} (hi : i < r.width) :
    streamBit (formulaFrame s.ce s.fields) (r.offset + i) = (s.fields.get r.field).getLsbD (r.width - 1 - i) := by
  have hzero : ∀ q ∈ Config.fieldTable, ∀ m, q.width ≤ m → (s.fields.get q.field).getLsbD m = false :=
    fun q hq m hm => field_getLsbD_eq_false hs hq hm
  simp only [Config.fieldTable, List.forall_mem_cons, FieldRegs.get] at hzero
  simp only [Config.fieldTable, List.mem_cons, List.not_mem_nil, or_false] at hr
  rcases hr with rfl | rfl | rfl | rfl | rfl | rfl | rfl | rfl | rfl | rfl
  all_goals
    simp only at hi
    interval_cases i
  all_goals simp [streamBit, formulaFrame, FieldRegs.get, hzero, -BitVec.getLsbD_eq_getElem]

/-- Every bit of 64..119 is in a row of the default table (30_encoding.md R54). -/
theorem exists_row_covering {j : Nat} (h64 : 64 ≤ j) (h120 : j < 120) :
    ∃ r ∈ Config.fieldTable, r.covers j = true := by
  have hall : ∀ i, i < 56 → ∃ r ∈ Config.fieldTable, r.covers (64 + i) = true := by decide
  simpa [Nat.add_sub_cancel' h64] using hall (j - 64) (by omega)

/-- A covered bit is one of the row's own. -/
theorem eq_offset_add_of_covers {r : FieldRow} {j : Nat} (h : r.covers j = true) : ∃ i, i < r.width ∧ j = r.offset + i := by
  simp only [FieldRow.covers, Bool.and_eq_true, decide_eq_true_eq] at h
  exact ⟨j - r.offset, by omega, by omega⟩

/-- Fifteen bytes that hold the clock-enable bytes and the fields where PACK places them are the packed frame. -/
theorem configFrame_eq_of_streamBit {s : State} {F : Vector Byte 15}
    (hce : ∀ j, j < 64 → streamBit F j = streamBit s.ce j)
    (hfields : ∀ r ∈ Config.fieldTable, ∀ i, i < r.width →
      streamBit F (r.offset + i) = (s.fields.get r.field).getLsbD (r.width - 1 - i)) :
    configFrame Config.fieldTable s = F := by
  refine eq_of_streamBit (fun j hj => ?_)
  rcases Nat.lt_or_ge j 64 with h | h
  · rw [streamBit_configFrame_of_lt _ s h, hce j h]
  · obtain ⟨r, hr, hc⟩ := exists_row_covering h hj
    obtain ⟨i, hi, rfl⟩ := eq_offset_add_of_covers hc
    rw [streamBit_configFrame_of_row fieldTable_legal s hr hi, hfields r hr i hi]

theorem configFrame_eq_formulaFrame {s : State} (hs : s.fields.Fit) :
    configFrame Config.fieldTable s = formulaFrame s.ce s.fields :=
  configFrame_eq_of_streamBit (fun _ hj => streamBit_formulaFrame_of_lt _ _ hj)
    (fun _ hr _ hi => streamBit_formulaFrame_of_row ((fit_iff_allInRange s).mp hs) hr hi)

theorem shiftLeft_toNat_lt {x : Word} {n a b : Nat} (h : x.toNat < 2 ^ a) (hab : a + n ≤ b) :
    (x <<< n).toNat < 2 ^ b := by
  rw [BitVec.toNat_shiftLeft, Nat.shiftLeft_eq]
  calc x.toNat * 2 ^ n % 2 ^ 16 ≤ x.toNat * 2 ^ n := Nat.mod_le _ _
    _ < 2 ^ a * 2 ^ n := Nat.mul_lt_mul_of_pos_right h (Nat.two_pow_pos n)
    _ = 2 ^ (a + n) := (Nat.pow_add 2 a n).symm
    _ ≤ 2 ^ b := Nat.pow_le_pow_right (by decide) hab

theorem ushiftRight_toNat_lt {x : Word} {n a b : Nat} (h : x.toNat < 2 ^ a) (hab : a ≤ b + n) :
    (x >>> n).toNat < 2 ^ b := by
  rw [BitVec.toNat_ushiftRight, Nat.shiftRight_eq_div_pow, Nat.div_lt_iff_lt_mul (Nat.two_pow_pos n), ← Nat.pow_add]
  exact Nat.lt_of_lt_of_le h (Nat.pow_le_pow_right (by decide) hab)

/-- Settles O12: the frame is the formulas', and in each `x <<< n ||| y` the term `y` is below `2 ^ n`. -/
theorem packedBytesByFormula : Obligations.PackedBytesByFormula := by
  intro g s hs
  refine ⟨(exec_pack_of_fit g hs).trans ?_, ?_⟩
  · rw [configFrame_eq_formulaFrame hs]
    rfl
  obtain ⟨_, hclkr, hclkod, hbwadj, hchipX, hchipY, _, hwidth, hmask, hdebug⟩ := hs
  have hclkr' : (s.fields.clkr >>> 2).toNat < 2 ^ 2 := ushiftRight_toNat_lt (a := 4) (by omega) (by decide)
  have hclkod' : (s.fields.clkod <<< 2).toNat < 2 ^ 6 := shiftLeft_toNat_lt (a := 4) (by omega) (by decide)
  have hbwadj' : (s.fields.bwadj >>> 6).toNat < 2 ^ 2 := ushiftRight_toNat_lt (a := 8) (by omega) (by decide)
  have hchipX' : (s.fields.chipX >>> 3).toNat < 2 ^ 2 := ushiftRight_toNat_lt (a := 5) (by omega) (by decide)
  have hwidth' : (s.fields.width <<< 1).toNat < 2 ^ 6 := shiftLeft_toNat_lt (a := 5) (by omega) (by decide)
  have hmask' : (s.fields.mask >>> 7).toNat < 2 ^ 1 := ushiftRight_toNat_lt (a := 8) (by omega) (by decide)
  exact ⟨shiftLeft_and_eq_zero _ hclkr', shiftLeft_and_eq_zero _ hclkod', shiftLeft_and_eq_zero _ (by omega),
    shiftLeft_and_eq_zero _ hbwadj', shiftLeft_and_eq_zero _ hchipX', shiftLeft_and_eq_zero _ (by omega),
    shiftLeft_and_eq_zero _ hwidth', shiftLeft_and_eq_zero _ (by omega), shiftLeft_and_eq_zero _ hmask',
    shiftLeft_and_eq_zero _ (by omega)⟩

/-! ## Every frame is one configuration (30_encoding.md R54) -/

/-- The field value that stands in a stream at a row's place (R50). -/
def fieldOfStream (S : Nat → Bool) (r : FieldRow) : Word :=
  (BitVec.ofFnLE fun i : Fin r.width => S (r.offset + (r.width - 1 - i.val))).setWidth 16

/-- The field registers whose values a frame holds. -/
def fieldsOfFrame (F : Vector Byte 15) : FieldRegs where
  clkf := fieldOfStream (streamBit F) ⟨.clkf, 6, 64⟩
  clkr := fieldOfStream (streamBit F) ⟨.clkr, 4, 70⟩
  clkod := fieldOfStream (streamBit F) ⟨.clkod, 4, 74⟩
  bwadj := fieldOfStream (streamBit F) ⟨.bwadj, 8, 78⟩
  chipX := fieldOfStream (streamBit F) ⟨.chipX, 5, 86⟩
  chipY := fieldOfStream (streamBit F) ⟨.chipY, 5, 91⟩
  delay := fieldOfStream (streamBit F) ⟨.delay, 10, 96⟩
  width := fieldOfStream (streamBit F) ⟨.width, 5, 106⟩
  mask := fieldOfStream (streamBit F) ⟨.mask, 8, 111⟩
  debugMode := fieldOfStream (streamBit F) ⟨.debugMode, 1, 119⟩

/-- The clock-enable bytes that a frame holds. -/
def ceOfFrame (F : Vector Byte 15) : Vector Byte 8 := Vector.ofFn fun k : Fin 8 => F[k.val]

theorem fieldOfStream_getLsbD (S : Nat → Bool) {r : FieldRow} (hr : r.width ≤ 16) {i : Nat} (hi : i < r.width) :
    (fieldOfStream S r).getLsbD (r.width - 1 - i) = S (r.offset + i) := by
  have hlt : r.width - 1 - i < r.width := by omega
  have hi' : r.width - 1 - (r.width - 1 - i) = i := by omega
  rw [fieldOfStream, BitVec.getLsbD_setWidth, BitVec.getLsbD_ofFnLE, dif_pos hlt, hi', decide_eq_true (by omega),
    Bool.true_and]

theorem fieldOfStream_toNat_lt (S : Nat → Bool) (r : FieldRow) : (fieldOfStream S r).toNat < 2 ^ r.width := by
  rw [fieldOfStream, BitVec.toNat_setWidth]
  exact Nat.lt_of_le_of_lt (Nat.mod_le _ _) (BitVec.isLt _)

theorem fieldsOfFrame_get (F : Vector Byte 15) {r : FieldRow} (hr : r ∈ Config.fieldTable) :
    (fieldsOfFrame F).get r.field = fieldOfStream (streamBit F) r := by
  simp only [Config.fieldTable, List.mem_cons, List.not_mem_nil, or_false] at hr
  rcases hr with rfl | rfl | rfl | rfl | rfl | rfl | rfl | rfl | rfl | rfl <;> rfl

theorem allInRange_fieldsOfFrame {s : State} {F : Vector Byte 15} (h : s.fields = fieldsOfFrame F) :
    allInRange Config.fieldTable s = true := by
  refine List.all_eq_true.mpr (fun r hr => decide_eq_true ?_)
  rw [h, fieldsOfFrame_get F hr]
  exact fieldOfStream_toNat_lt _ r

/-- PACK of the configuration that a frame holds gives the frame back. -/
theorem configFrame_of_frame {s : State} {F : Vector Byte 15} (hce : s.ce = ceOfFrame F)
    (hf : s.fields = fieldsOfFrame F) : configFrame Config.fieldTable s = F := by
  have hwidth : ∀ r ∈ Config.fieldTable, r.width ≤ 16 := by decide
  refine configFrame_eq_of_streamBit (fun j hj => ?_) (fun r hr i hi => ?_)
  · rw [streamBit, streamBit, byteAt_of_lt _ (by omega), byteAt_of_lt _ (by omega), hce]
    simp [ceOfFrame]
  · rw [hf, fieldsOfFrame_get F hr, fieldOfStream_getLsbD _ (hwidth r hr) hi]

/-- Two in-range configurations with one frame are the same, in every legal table (40_frame_codec.md R64 (3)). -/
theorem configFrame_injective {T : FieldTable} (hT : T.legal) {s u : State} (hs : allInRange T s = true)
    (hu : allInRange T u = true) (h : configFrame T s = configFrame T u) : s.ce = u.ce ∧ s.fields = u.fields := by
  constructor
  · refine eq_of_streamBit (fun j hj => ?_)
    rw [← streamBit_configFrame_of_lt T s hj, h, streamBit_configFrame_of_lt T u hj]
  · refine FieldRegs.ext_get (fun f => ?_)
    obtain ⟨r, hr, rfl⟩ := hT.1 f
    apply BitVec.eq_of_getLsbD_eq
    intro i _
    rcases Nat.lt_or_ge i r.width with hi | hi
    · have hj : r.width - 1 - (r.width - 1 - i) = i := by omega
      have hlt : r.width - 1 - i < r.width := by omega
      rw [← hj, ← streamBit_configFrame_of_row hT s hr hlt, h, streamBit_configFrame_of_row hT u hr hlt]
    · rw [field_getLsbD_eq_false hs hr hi, field_getLsbD_eq_false hu hr hi]

/-- At most one row of a legal table covers a bit. -/
theorem row_covering_unique {T : FieldTable} (hT : T.legal) {r q : FieldRow} {j : Nat} (hr : r ∈ T) (hq : q ∈ T)
    (hrj : r.covers j = true) (hqj : q.covers j = true) : r = q :=
  Option.some.inj ((find_covering hT hr hrj).symm.trans (find_covering hT hq hqj))

/-- A state with a given configuration. -/
def stateWith (c : Vector Byte 8 × FieldRegs) : State := { State.reset with ce := c.1, fields := c.2 }

theorem configFrame_of_exec_pack {c : Vector Byte 8 × FieldRegs} (hc : c.2.Fit) {F : Vector Byte 15}
    (h : ∀ (g : BitVec 14) (s : State), s.ce = c.1 → s.fields = c.2 →
      exec (.pack g) s = .next { s with txFrame := F, txStatus := 1#2 }) :
    configFrame Config.fieldTable (stateWith c) = F :=
  congrArg State.txFrame
    (Host.Outcome.next.inj ((exec_pack_of_fit (s := stateWith c) 0#14 hc).symm.trans (h 0#14 (stateWith c) rfl rfl)))

/-- Settles O17: a frame's own bits are the one configuration that packs to it. -/
theorem everyFrameIsOneConfiguration : Obligations.EveryFrameIsOneConfiguration := by
  refine ⟨fun g s hs => ⟨_, exec_pack_of_fit g hs, fun j hj => streamBit_configFrame_of_lt _ s hj⟩, by decide,
    fun r hr => legal_row_bounds fieldTable_legal hr, fun j h64 h120 => ?_, fun F => ?_⟩
  · obtain ⟨r, hr, hj⟩ := exists_row_covering h64 h120
    exact ⟨r, ⟨hr, hj⟩, fun q ⟨hq, hqj⟩ => row_covering_unique fieldTable_legal hq hr hqj hj⟩
  · have hfit : (fieldsOfFrame F).Fit :=
      (fit_iff_allInRange (stateWith (ceOfFrame F, fieldsOfFrame F))).mpr (allInRange_fieldsOfFrame rfl)
    refine ⟨(ceOfFrame F, fieldsOfFrame F), ⟨hfit, fun g s hce hf => ?_⟩, fun c ⟨hc, hpack⟩ => ?_⟩
    · rw [exec_pack_of_fit g (hf ▸ hfit), configFrame_of_frame hce hf]
      rfl
    · have hframe := (configFrame_of_exec_pack hc hpack).trans
        (configFrame_of_frame (s := stateWith (ceOfFrame F, fieldsOfFrame F)) rfl rfl).symm
      obtain ⟨hce, hf⟩ := configFrame_injective fieldTable_legal ((fit_iff_allInRange _).mp hc)
        ((fit_iff_allInRange _).mp hfit) hframe
      exact Prod.ext hce hf

/-! ## What UNPACK reads (30_encoding.md R55 to R57) -/

theorem l2ClusterBusy_unpacked {s : State} (b : Vector Byte 19) (hs : s.tL2Busy = (telemetryOf b).l2Busy) {n : Nat}
    (h1 : 1 ≤ n) (h64 : n ≤ 64) : l2ClusterBusy s n = streamBit b (24 + (n - 1)) := by
  have hn : 64 - n = 63 - (n - 1) := by omega
  rw [l2ClusterBusy, hs, hn, telemetry_l2Busy b (by omega)]

theorem l2ClusterDone_unpacked {s : State} (b : Vector Byte 19) (hs : s.tL2Done = (telemetryOf b).l2Done) {n : Nat}
    (h1 : 1 ≤ n) (h64 : n ≤ 64) : l2ClusterDone s n = streamBit b (88 + (n - 1)) := by
  have hn : 64 - n = 63 - (n - 1) := by omega
  rw [l2ClusterDone, hs, hn, telemetry_l2Done b (by omega)]

/-- Settles O22: the telemetry record's bits, cluster n counted from the most significant end. -/
theorem telemetryClustersByStreamBit : Obligations.TelemetryClustersByStreamBit := by
  intro g s hs
  refine ⟨_, exec_unpack_full g (Nat.le_of_eq hs.symm), telemetry_l5 _, fun n h1 h4 => ?_, fun n h1 h16 => ?_,
    fun n => l2ClusterBusy_unpacked _ rfl, fun n => l2ClusterDone_unpacked _ rfl⟩
  · have hn : 4 - n = 3 - (n - 1) := by omega
    rw [l4ClusterBusy, hn]
    exact telemetry_l4 _ (by omega)
  · have hn : 16 - n = 15 - (n - 1) := by omega
    rw [l3ClusterBusy, hn]
    exact telemetry_l3 _ (by omega)

/-- Settles O23: UNPACK leaves CE and the packed frame, PACK leaves RX_BUF, and each bitmap is read at its offset. -/
theorem bothClusterNumberingsNameOnePosition : Obligations.BothClusterNumberingsNameOnePosition := by
  intro g h s n h1 h64 hs hlen
  refine ⟨_, _, exec_pack_of_fit g hs, exec_unpack_full h (Nat.le_of_eq hlen.symm), ?_, l2ClusterBusy_unpacked _ rfl h1 h64,
    l2ClusterDone_unpacked _ rfl h1 h64⟩
  have hc : n - 1 < 64 := by omega
  exact (streamBit_configFrame_of_lt Config.fieldTable s hc).symm

/-- The telemetry record holds bits [7:3] of RX_BUF[1] and no other bit of that byte (30_encoding.md R56). -/
theorem telemetryOf_set_zero (rx : Vector Byte 19) {b : Byte} (h : b.extractLsb' 3 5 = rx[0].extractLsb' 3 5) :
    telemetryOf (rx.set 0 b) = telemetryOf rx := by
  have hbit : ∀ i, i < 5 → b.getLsbD (3 + i) = rx[0].getLsbD (3 + i) := by
    intro i hi
    have := congrArg (fun v => v.getLsbD i) h
    simpa only [BitVec.getLsbD_extractLsb', decide_eq_true hi, Bool.true_and] using this
  have hl5 : b.extractLsb' 7 1 = rx[0].extractLsb' 7 1 := by
    apply BitVec.eq_of_getLsbD_eq
    intro i hi
    have := hbit (4 + i) (by omega)
    rw [← Nat.add_assoc] at this
    rw [BitVec.getLsbD_extractLsb', BitVec.getLsbD_extractLsb', this]
  have hl4 : b.extractLsb' 3 4 = rx[0].extractLsb' 3 4 := by
    apply BitVec.eq_of_getLsbD_eq
    intro i hi
    rw [BitVec.getLsbD_extractLsb', BitVec.getLsbD_extractLsb', hbit i (by omega)]
  simp [telemetryOf, hl5, hl4]

/-- Settles O25: the length test does not read the byte, and the record keeps none of its low three bits. -/
theorem unpackIgnoresReservedBits : Obligations.UnpackIgnoresReservedBits := by
  intro g s b hb
  rcases Nat.lt_or_ge s.rxLen.toNat 19 with hl | hl
  · exact ⟨_, _, exec_unpack_short g hl, exec_unpack_short g hl, rfl, rfl, rfl, rfl, rfl, rfl⟩
  · refine ⟨_, _, exec_unpack_full g hl, exec_unpack_full g hl, ?_⟩
    have ht := telemetryOf_set_zero s.rxBuf hb
    simp only [setStatus, loadTelemetry, ht, and_self]

/-! ## Programs of the host (30_encoding.md R59, R60) -/

/-- A line keeps what is pending after it. -/
theorem runLine_pending {l : Line} {rest : List Line} {s u : State} (h : runLine l (withPending rest s) = .next u) :
    u = withPending rest u :=
  Host.Outcome.next.inj (h.symm.trans (runLine_withPending h rest))

/-- Settles O53: each line is one step, in which the lines after it stay pending. -/
theorem linesRunAsSteps : Obligations.LinesRunAsSteps := by
  intro ls rest
  induction ls with
  | nil =>
    intro s t h
    exact h
  | cons l ls ih =>
    intro s t h
    rw [runLines] at h
    split at h
    · next u hu =>
      have hstep : step (withPending (l :: ls ++ rest) s) = .next (withPending (ls ++ rest) u) :=
        (step_cons rfl).trans (runLine_withPending hu (ls ++ rest))
      rw [List.length_cons, core_run_of_step _ hstep]
      refine ih u t ?_
      rwa [← runLine_pending hu]
    · cases h
    · cases h

theorem set_eq_setIfInBounds {n : Nat} (b : Vector Byte n) {k : Nat} (h : k < n) (x : Byte) :
    b.set k x h = b.setIfInBounds k x := by
  simp [Vector.set, Vector.setIfInBounds, Array.setIfInBounds, h]

/-- A buffer with a list of bytes stored at consecutive places, the first at `k`. -/
def storeFrom {n : Nat} (b : Vector Byte n) (k : Nat) : List Byte → Vector Byte n
  | [] => b
  | x :: xs => storeFrom (b.setIfInBounds k x) (k + 1) xs

theorem storeFrom_getElem {n : Nat} (b : Vector Byte n) (k : Nat) (bs : List Byte) {j : Nat} (hj : j < n) :
    (storeFrom b k bs)[j] = if h : k ≤ j ∧ j < k + bs.length then bs[j - k] else b[j] := by
  induction bs generalizing b k with
  | nil => rw [storeFrom, dif_neg (by simp)]
  | cons x xs ih =>
    rw [storeFrom, ih]
    rcases Nat.lt_trichotomy j k with h | rfl | h
    · rw [dif_neg (by omega), dif_neg (by omega), Vector.getElem_setIfInBounds_ne _ (by omega)]
    · rw [dif_neg (by omega), dif_pos (by simp), Vector.getElem_setIfInBounds_self]
      simp
    · have hjk : j - k = j - (k + 1) + 1 := by omega
      rw [Vector.getElem_setIfInBounds_ne _ (by omega)]
      rcases Nat.lt_or_ge j (k + 1 + xs.length) with hlt | hge
      · rw [dif_pos ⟨h, hlt⟩, dif_pos ⟨by omega, by rw [List.length_cons]; omega⟩]
        simp only [hjk, List.getElem_cons_succ]
      · rw [dif_neg (by omega), dif_neg (by rw [List.length_cons]; omega)]

/-- Bytes stored from the buffer's start. -/
theorem storeFrom_zero_getElem {n : Nat} (b : Vector Byte n) (bs : List Byte) (k : Fin n) :
    (storeFrom b 0 bs)[k.val] = if h : k.val < bs.length then bs[k.val] else b[k.val] := by
  rw [storeFrom_getElem]
  simp

/-- Loading lines store their bytes one by one, in a buffer of which each of the first `cap` places is written at its
own address. -/
theorem runLines_loadLines {n base cap : Nat} {put : Vector Byte n → State}
    (hput : ∀ k, k < cap → ∀ (x : Byte) (b : Vector Byte n),
      runLine (wr (base + k) (byteDatum x)) (put b) = .next (put (b.setIfInBounds k x)))
    (bs : List Byte) {k : Nat} (hk : k + bs.length ≤ cap) (b : Vector Byte n) :
    runLines (loadLines (base + k) (bs.map byteDatum)) (put b) = .next (put (storeFrom b k bs)) := by
  induction bs generalizing k b with
  | nil => rfl
  | cons x xs ih =>
    rw [List.length_cons] at hk
    rw [List.map_cons, loadLines, runLines, hput k (by omega)]
    exact ih (k := k + 1) (by omega) _

theorem runLine_rxBuf (s : State) (k : Nat) (hk : k < 19) (x : Byte) (b : Vector Byte 19) :
    runLine (wr (0x30 + k) (byteDatum x)) { s with rxBuf := b } =
      .next { s with rxBuf := b.setIfInBounds k x } := by
  rw [byteDatum, runLine_wr (r := .rxBuf ⟨k, hk⟩) (regAt_addrOf rfl) nofun, writeReg_rxBuf_eq, lowByte_setWidth,
    set_eq_setIfInBounds]

/-- A write to an existing place of EXP_BUF (20_memory.md R31). -/
theorem hostWrite_expBuf {k : Nat} (hk : k < Config.vmax) (w : Word) (s : State) :
    hostWrite (BitVec.ofNat 8 (0x80 + k)) w s = .next { s with expBuf := s.expBuf.setIfInBounds k (lowByte w) } := by
  have h64 := Nat.lt_of_lt_of_le hk Config.vmax_le
  rw [hostWrite_of_regAt (regAt_expBuf ⟨k, h64⟩) nofun, writeReg_expBuf_of_lt hk, set_eq_setIfInBounds]

theorem runLine_expBuf (s : State) (k : Nat) (hk : k < Config.vmax) (x : Byte) (b : Vector Byte 64) :
    runLine (wr (0x80 + k) (byteDatum x)) { s with expBuf := b } =
      .next { s with expBuf := b.setIfInBounds k x } := by
  refine (hostWrite_expBuf hk _ _).trans ?_
  rw [lowByte_setWidth]

theorem runLine_rcvBuf (s : State) (k : Nat) (hk : k < Config.vmax) (x : Byte) (b : Vector Byte 64) :
    runLine (wr (0xC0 + k) (byteDatum x)) { s with rcvBuf := b } =
      .next { s with rcvBuf := b.setIfInBounds k x } := by
  have h64 := Nat.lt_of_lt_of_le hk Config.vmax_le
  rw [byteDatum, runLine_wr (r := .rcvBuf ⟨k, h64⟩) (regAt_addrOf rfl) nofun, writeReg_rcvBuf_of_lt hk, lowByte_setWidth,
    set_eq_setIfInBounds]

/-- A length within its capacity is stored as it is (20_memory.md R36). -/
theorem clampLen_ofNat {w cap n : Nat} (hn : n ≤ cap) (hcap : cap < 2 ^ 16) :
    clampLen w cap (BitVec.ofNat 16 n) = BitVec.ofNat w n := by
  rw [clampLen, BitVec.toNat_ofNat, Nat.mod_eq_of_lt (by omega), Nat.min_eq_left hn]

/-- A loading pseudo-instruction: its bytes, then its length (30_encoding.md R60). -/
theorem runLines_load {n base cap : Nat} {put : Vector Byte n → State}
    (hput : ∀ k, k < cap → ∀ (x : Byte) (b : Vector Byte n),
      runLine (wr (base + k) (byteDatum x)) (put b) = .next (put (b.setIfInBounds k x)))
    (bs : List Byte) (hbs : bs.length ≤ cap) (b : Vector Byte n) {a : Nat} {r : Reg} (ha : regAt (BitVec.ofNat 8 a) = r)
    (hr : r ≠ .cmd) :
    runLines (loadLines base (bs.map byteDatum) ++ [wrLit a (bs.map byteDatum).length]) (put b) =
      .next (writeReg r (BitVec.ofNat 16 bs.length) (put (storeFrom b 0 bs))) := by
  have hload : runLines (loadLines base (bs.map byteDatum)) (put b) = .next (put (storeFrom b 0 bs)) :=
    runLines_loadLines hput bs (k := 0) (by omega) b
  rw [runLines_append hload, List.length_map, runLines, wrLit, runLine_wr ha hr]
  rfl

theorem vmax_lt_word : Config.vmax < 2 ^ 16 := Nat.lt_of_le_of_lt Config.vmax_le (by decide)

/-- Settles O54: `runLines_load` for each of the three buffers. -/
theorem loadsFillBufferAndLength : Obligations.LoadsFillBufferAndLength := by
  intro bs s
  refine ⟨fun h => ⟨storeFrom s.rxBuf 0 bs, ?_, storeFrom_zero_getElem _ bs⟩,
    fun h => ⟨storeFrom s.expBuf 0 bs, ?_, storeFrom_zero_getElem _ bs⟩,
    fun h => ⟨storeFrom s.rcvBuf 0 bs, ?_, storeFrom_zero_getElem _ bs⟩⟩
  · refine (runLines_load (runLine_rxBuf s) bs h s.rxBuf (r := .rxLen) (by decide) nofun).trans ?_
    rw [writeReg_rxLen_eq, clampLen_ofNat (cap := Config.rxCap) h (by decide)]
  · refine (runLines_load (runLine_expBuf s) bs h s.expBuf (r := .expLen) (by decide) nofun).trans ?_
    rw [writeReg_expLen_eq, clampLen_ofNat h vmax_lt_word]
  · refine (runLines_load (runLine_rcvBuf s) bs h s.rcvBuf (r := .rcvLen) (by decide) nofun).trans ?_
    rw [writeReg_rcvLen_eq, clampLen_ofNat h vmax_lt_word]

/-- A read of a frame byte answers it under its name. -/
theorem runLine_read_txFrame (n : Name) (k : Fin 15) (s : State) :
    runLine (.read (BitVec.ofNat 8 (0x20 + k.val)) (some n)) s = .next (answer (some n) (s.txFrame[k.val].setWidth 16) s) := by
  have hreg : regAt (BitVec.ofNat 8 (0x20 + k.val)) = .txFrame k := regAt_addrOf rfl
  have hc : reservedCodeAt (BitVec.ofNat 8 (0x20 + k.val)) s = none :=
    reservedCodeAt_eq_none (fun c h => by rw [hreg] at h; cases h)
  rw [runLine, transact, hc, hostRead, hreg]
  rfl

/-- A name stands for the word that was read under it last. -/
theorem datumWord_named_answer (n : Name) (w : Word) (s : State) :
    datumWord (.named n) (answer (some n) w s) = .ok w := by
  simp [datumWord, lookupName]

/-- The state after some bytes were read under names and stored in EXP_BUF. -/
def afterCopy (e : Vector Byte 64) (rs : List Reply) (s : State) : State :=
  { s with expBuf := e, port := { s.port with replies := rs ++ s.port.replies } }

theorem afterCopy_afterCopy (e e' : Vector Byte 64) (rs rs' : List Reply) (s : State) :
    afterCopy e' rs' (afterCopy e rs s) = afterCopy e' (rs' ++ rs) s := by
  simp [afterCopy]

/-- One pair of `COPYTX` lines copies one byte of the frame (30_encoding.md R60). -/
theorem runLines_copyLines_succ {k : Nat} (hk : k < 15) (n : Nat) (s : State) :
    runLines (copyLines (k + 1) (n + 1)) s =
      runLines (copyLines (k + 1 + 1) n)
        (afterCopy (s.expBuf.setIfInBounds k s.txFrame[k]) [⟨some (copyName (k + 1)), s.txFrame[k].setWidth 16⟩] s) := by
  have hread : 0x1F + (k + 1) = 0x20 + k := by omega
  have hwrite : 0x7F + (k + 1) = 0x80 + k := by omega
  have hv : k < Config.vmax := Nat.lt_of_lt_of_le hk Config.vmax_ge
  rw [copyLines, hread, hwrite, runLines, runLine_read_txFrame _ ⟨k, hk⟩]
  simp only [runLines, wr, runLine, datumWord_named_answer, transact, hostWrite_expBuf hv, lowByte_setWidth]
  rfl

/-- The pairs of `COPYTX` from place `k` on copy the rest of the frame (30_encoding.md R60). -/
theorem runLines_copyLines {k n : Nat} (h : k + n = 15) (s : State) :
    ∃ rs, rs.length = n ∧
      runLines (copyLines (k + 1) n) s = .next (afterCopy (storeFrom s.expBuf k (s.txFrame.toList.drop k)) rs s) := by
  induction n generalizing k s with
  | zero =>
    have hd : s.txFrame.toList.drop k = [] := List.drop_of_length_le (by simp; omega)
    exact ⟨[], rfl, by rw [hd]; rfl⟩
  | succ n ih =>
    have hk : k < 15 := by omega
    have hd : s.txFrame.toList.drop k = s.txFrame[k] :: s.txFrame.toList.drop (k + 1) := by
      rw [List.drop_eq_getElem_cons (by simpa using hk), Vector.getElem_toList]
    obtain ⟨rs, hlen, hrun⟩ := ih (k := k + 1) (by omega) (afterCopy (s.expBuf.setIfInBounds k s.txFrame[k])
      [⟨some (copyName (k + 1)), s.txFrame[k].setWidth 16⟩] s)
    rw [runLines_copyLines_succ hk, hrun, afterCopy_afterCopy, hd]
    exact ⟨_, by simp [hlen], rfl⟩

/-- Settles O55: the fifteen pairs copy the whole frame, and the last line writes its length. -/
theorem copyTxLoadsTheFrame : Obligations.CopyTxLoadsTheFrame := by
  intro s
  obtain ⟨rs, hlen, hrun⟩ := runLines_copyLines (k := 0) (n := 15) rfl s
  have hget := storeFrom_zero_getElem s.expBuf s.txFrame.toList
  refine ⟨storeFrom s.expBuf 0 s.txFrame.toList, rs, ?_, hlen, fun k => ?_, fun k hk => ?_⟩
  · rw [expand, runLines_append hrun, runLines, wrLit, runLine_wr (r := .expLen) (by decide) nofun, writeReg_expLen_eq,
      clampLen_ofNat Config.vmax_ge vmax_lt_word]
    rfl
  · rw [hget ⟨k.val, by omega⟩, dif_pos (by simp), Vector.getElem_toList]
  · rw [hget k, dif_neg (by simpa using hk)]

end Sys2Proof.Machine

/-!
PROOFS. The family 40_frame_codec.md: what PACK reads and what it reports (R61 to R64), what UNPACK reads and what it reports
(R65 to R68). PACK is seen here through the bits of its frame, each of which one field or one clock-enable byte decides.
-/

namespace Sys2Proof.Machine

/-! ## What PACK reads (40_frame_codec.md R61, R64) -/

/-- A frame bit depends on CE and on the fields whose rows cover it, and on nothing else. -/
theorem configBit_congr {T : FieldTable} {s u : State} {j : Nat} (hce : s.ce = u.ce)
    (h : ∀ r ∈ T, r.covers j = true → s.fields.get r.field = u.fields.get r.field) : configBit T s j = configBit T u j := by
  unfold configBit
  rw [hce]
  cases hfind : T.find? (fun r => r.covers j) with
  | none => rfl
  | some r =>
    have hc : r.covers j = true := List.find?_some (p := fun q : FieldRow => q.covers j) hfind
    simp only [h r (List.mem_of_find?_eq_some hfind) hc]

/-- The frame depends on CE and F_* only. -/
theorem configFrame_congr (T : FieldTable) {s u : State} (hce : s.ce = u.ce) (hf : s.fields = u.fields) :
    configFrame T s = configFrame T u := by
  have hbit : configBit T s = configBit T u := funext fun _ => configBit_congr hce (fun r _ _ => by rw [hf])
  rw [configFrame, configFrame, hbit]

/-- The range checks depend on F_* only. -/
theorem allInRange_congr (T : FieldTable) {s u : State} (hf : s.fields = u.fields) : allInRange T s = allInRange T u := by
  rw [allInRange, allInRange, hf]

/-- Settles O16: the rows that cover the bit are rows of other fields, whose registers the change leaves. -/
theorem changingOneFieldChangesOnlyItsBits : Obligations.ChangingOneFieldChangesOnlyItsBits := by
  intro T s f v _ hs hu j hj hbit
  rw [packWith_of_inRange hs, packWith_of_inRange hu]
  refine (streamBit_configFrame T _ hj).trans (Eq.trans ?_ (streamBit_configFrame T s hj).symm)
  refine configBit_congr rfl (fun r hr hc => FieldRegs.get_set_ne _ _ (fun hrf => ?_))
  rw [hbit r hr hrf] at hc
  cases hc

/-! ## What PACK reports (40_frame_codec.md R62 to R64) -/

/-- Settles O10: R62's bounds are the range checks of the default table. -/
theorem rangeCheckBounds : Obligations.RangeCheckBounds :=
  ⟨fun _ _ => decide_eq_true_iff, fun s => (fit_iff_allInRange s).symm⟩

/-- PACK of a configuration with a field out of range (40_frame_codec.md R63). -/
theorem exec_pack_of_not_fit (g : BitVec 14) {s : State} (h : ¬ s.fields.Fit) :
    exec (.pack g) s = .next (raiseError .tx s) := by
  rw [fit_iff_allInRange, Bool.not_eq_true] at h
  rw [exec_pack, packWith_of_outOfRange h]

/-- Settles O11: the two outcomes of PACK, written out as states. -/
theorem packIsAllOrNothing : Obligations.PackIsAllOrNothing := fun g _ =>
  ⟨fun h => exec_pack_of_fit g h, fun h => exec_pack_of_not_fit g h⟩

theorem codeError_ne_codeOk : codeError ≠ codeOk := by decide

/-- PACK reports VALID only where it loads the frame of an in-range configuration (40_frame_codec.md R63). -/
theorem exec_pack_valid {g : BitVec 14} {s t : State} (h : exec (.pack g) s = .next t) (hv : t.txStatus = codeOk) :
    allInRange Config.fieldTable s = true ∧ t.txFrame = configFrame Config.fieldTable s := by
  cases Host.Outcome.next.inj h
  cases hs : allInRange Config.fieldTable s with
  | true => exact ⟨rfl, by rw [packWith_of_inRange hs]; rfl⟩
  | false =>
    rw [packWith_of_outOfRange hs] at hv
    exact absurd hv codeError_ne_codeOk

/-! PACK leaves what it reads, CE and F_* (10_state.md R10). -/

@[simp] theorem packWith_ce (T : FieldTable) (s : State) : (packWith T s).ce = s.ce := by
  rw [packWith]
  split <;> rfl

@[simp] theorem packWith_fields (T : FieldTable) (s : State) : (packWith T s).fields = s.fields := by
  rw [packWith]
  split <;> rfl

/-- Loading a frame and reporting it is idempotent. -/
theorem report_frame_twice (code : BitVec 2) (frame : Vector Byte 15) (s : State) :
    setStatus .tx code (loadFrame frame (setStatus .tx code (loadFrame frame s))) =
      setStatus .tx code (loadFrame frame s) := rfl

/-- A second PACK passes or fails the same checks and loads the same frame again (40_frame_codec.md R64 (1)). -/
theorem packWith_packWith (T : FieldTable) (s : State) : packWith T (packWith T s) = packWith T s := by
  have hsame : allInRange T (packWith T s) = allInRange T s := allInRange_congr T (packWith_fields T s)
  cases hs : allInRange T s with
  | true =>
    rw [packWith_of_inRange (hsame.trans hs), configFrame_congr T (packWith_ce T s) (packWith_fields T s),
      packWith_of_inRange hs, report_frame_twice]
  | false =>
    rw [packWith_of_outOfRange (hsame.trans hs), packWith_of_outOfRange hs]
    rfl

/-- States with the same CE and F_* get the same report and, when it is VALID, the same frame (40_frame_codec.md R64 (1)). -/
theorem packWith_congr (T : FieldTable) {s u : State} (hce : s.ce = u.ce) (hf : s.fields = u.fields) :
    (packWith T s).txStatus = (packWith T u).txStatus ∧
    ((packWith T s).txStatus = codeOk → (packWith T s).txFrame = (packWith T u).txFrame) := by
  cases hs : allInRange T s with
  | true =>
    rw [packWith_of_inRange hs, packWith_of_inRange ((allInRange_congr T hf).symm.trans hs)]
    exact ⟨rfl, fun _ => configFrame_congr T hce hf⟩
  | false =>
    rw [packWith_of_outOfRange hs, packWith_of_outOfRange ((allInRange_congr T hf).symm.trans hs)]
    exact ⟨rfl, fun h => absurd h codeError_ne_codeOk⟩

/-- Settles O18: the three clauses are `packWith_packWith`, `packWith_congr` and `configFrame_injective`. -/
theorem packIsAPureInjection : Obligations.PackIsAPureInjection := by
  refine ⟨fun g h s t ht => ?_, fun g h s u hce hf => ⟨_, _, rfl, rfl, packWith_congr _ hce hf⟩,
    fun g h s u t v ht hv hts hvs hframe => ?_⟩
  · cases Host.Outcome.next.inj ht
    exact congrArg Host.Outcome.next (packWith_packWith _ s)
  · obtain ⟨hs, hst⟩ := exec_pack_valid ht hts
    obtain ⟨hu, huv⟩ := exec_pack_valid hv hvs
    exact configFrame_injective fieldTable_legal hs hu (hst.symm.trans (hframe.trans huv))

/-! ## UNPACK (40_frame_codec.md R65 to R68) -/

/-- Settles O21: the two outcomes of UNPACK, written out as states. -/
theorem unpackDecodesOrReportsShort : Obligations.UnpackDecodesOrReportsShort := fun g _ =>
  ⟨fun h => exec_unpack_full g h, fun h => exec_unpack_short g h⟩

/-- Settles O24: the length test has the two outcomes of UNPACK, and a write to RX_LEN stores the clamped word (R36). -/
theorem shortBufferBelowNineteen : Obligations.ShortBufferBelowNineteen := by
  refine ⟨fun g s h => exec_unpack_short g h, fun g s h => ⟨_, exec_unpack_full g h, rfl⟩, fun d s => ?_⟩
  exact ⟨_, hostWrite_addrOf (r := .rxLen) rfl nofun d s, clampLen_le (by decide) d⟩

/-- Settles O26: the length test reads RX_LEN, and what is loaded is the telemetry record of RX_BUF. -/
theorem unpackReadsOnlyRxBuffer : Obligations.UnpackReadsOnlyRxBuffer := by
  intro g s u hlen hbuf
  rcases Nat.lt_or_ge s.rxLen.toNat 19 with hl | hl
  · exact ⟨_, _, exec_unpack_short g hl, exec_unpack_short g (hlen ▸ hl), rfl, fun h => absurd h codeError_ne_codeOk⟩
  · refine ⟨_, _, exec_unpack_full g hl, exec_unpack_full g (hlen ▸ hl), rfl, fun _ => ?_⟩
    rw [hbuf]
    exact ⟨rfl, rfl, rfl, rfl, rfl⟩

end Sys2Proof.Machine

/-!
PROOFS. The family 41_echo_verifier.md: the verdict of VERIFY (R69 to R72). VERIFY is seen here through the equality of its two
operands, EXP_BUF[1..EXP_LEN] and RCV_BUF[1..RCV_LEN]: its code is 1 where they are equal and 2 elsewhere.
-/

namespace Sys2Proof.Machine

/-! ## The verdict (41_echo_verifier.md R69) -/

/-- The two operands of VERIFY are equal: the lengths, and the bytes below them (41_echo_verifier.md R69). -/
def OperandsEqual (s : State) : Prop :=
  s.expLen = s.rcvLen ∧ ∀ i : Fin 64, i.val < s.expLen.toNat → s.expBuf[i.val] = s.rcvBuf[i.val]

/-- `sameBytes_iff` for a count of any size: beyond the 64 places both buffers read 0. -/
theorem sameBytes_iff_forall_place (e r : Vector Byte 64) (n : Nat) :
    sameBytes e r n = true ↔ ∀ i : Fin 64, i.val < n → e[i.val] = r[i.val] := by
  simp only [sameBytes, List.all_eq_true, List.mem_range, beq_iff_eq]
  refine ⟨fun h i hi => ?_, fun h i hi => ?_⟩
  · simpa using h i.val hi
  · rcases Nat.lt_or_ge i 64 with hlt | hge
    · simpa [hlt] using h ⟨i, hlt⟩ hi
    · rw [byteAt_of_ge e hge, byteAt_of_ge r hge]

/-- The model's test decides the equality of the operands, in every state. -/
theorem echoMatches_iff (s : State) : echoMatches s = true ↔ OperandsEqual s := by
  rw [echoMatches, Bool.and_eq_true, decide_eq_true_iff, sameBytes_iff_forall_place, OperandsEqual]

/-- VERIFY on equal operands. -/
theorem exec_verify_match (g : BitVec 14) {s : State} (h : OperandsEqual s) :
    exec (.verify g) s = .next (setStatus .vf codeOk s) := by
  rw [exec_verify, if_pos ((echoMatches_iff s).mpr h)]

/-- VERIFY on different operands. -/
theorem exec_verify_mismatch (g : BitVec 14) {s : State} (h : ¬ OperandsEqual s) :
    exec (.verify g) s = .next (setStatus .vf codeError s) := by
  rw [exec_verify, if_neg (fun he => h ((echoMatches_iff s).mp he))]

/-- States whose operands are equal together get the same verdict. -/
theorem echoMatches_congr {s u : State} (h : OperandsEqual u ↔ OperandsEqual s) : echoMatches u = echoMatches s := by
  rw [Bool.eq_iff_iff, echoMatches_iff, echoMatches_iff, h]

/-- VERIFY reports the same code in both (41_echo_verifier.md R72 (4), (5)). -/
theorem exec_verify_sameCode (g h : BitVec 14) {s u : State} (heq : OperandsEqual u ↔ OperandsEqual s) :
    ∃ t v, exec (.verify g) s = .next t ∧ exec (.verify h) u = .next v ∧ v.vfStatus = t.vfStatus := by
  refine ⟨_, _, exec_verify g s, exec_verify h u, ?_⟩
  rw [setStatus_vf_vfStatus, setStatus_vf_vfStatus, echoMatches_congr heq]

/-! ## What makes operands differ (41_echo_verifier.md R70, R72) -/

/-- Different lengths. -/
theorem not_operandsEqual_of_length {s : State} (h : s.expLen ≠ s.rcvLen) : ¬ OperandsEqual s :=
  fun he => h he.1

/-- One differing byte below the length. -/
theorem not_operandsEqual_of_byte {s : State} (i : Fin 64) (hi : i.val < s.expLen.toNat)
    (h : s.expBuf[i.val] ≠ s.rcvBuf[i.val]) : ¬ OperandsEqual s :=
  fun he => h (he.2 i hi)

/-- Inverting one bit changes the byte. -/
theorem flipBit_ne (x : Byte) (b : Fin 8) : x ^^^ BitVec.twoPow 8 b.val ≠ x := by
  intro h
  have hbit : (x ^^^ BitVec.twoPow 8 b.val).getLsbD b.val = x.getLsbD b.val := by rw [h]
  simp at hbit

/-! ## What keeps the equality of the operands (41_echo_verifier.md R72) -/

/-- Swapping the operands (41_echo_verifier.md R72 (4)). -/
theorem operandsEqual_swap (s : State) :
    OperandsEqual { s with expLen := s.rcvLen, expBuf := s.rcvBuf, rcvLen := s.expLen, rcvBuf := s.expBuf } ↔
      OperandsEqual s :=
  ⟨fun h => ⟨h.1.symm, fun i hi => (h.2 i (h.1 ▸ hi)).symm⟩, fun h => ⟨h.1.symm, fun i hi => (h.2 i (h.1 ▸ hi)).symm⟩⟩

/-- Changing anything but the operands (41_echo_verifier.md R72 (5)). -/
theorem operandsEqual_congr {s u : State} (hel : u.expLen = s.expLen) (hrl : u.rcvLen = s.rcvLen)
    (he : u.expBuf = s.expBuf) (hr : u.rcvBuf = s.rcvBuf) : OperandsEqual u ↔ OperandsEqual s := by
  rw [OperandsEqual, OperandsEqual, hel, hrl, he, hr]

/-! ## The statements about VERIFY (41_echo_verifier.md R69 to R72) -/

/-- Settles O29: the two outcomes of VERIFY, written out as states. -/
theorem verifyComparesLengthAndBytes : Obligations.VerifyComparesLengthAndBytes := fun g _ _ =>
  ⟨exec_verify_match g, exec_verify_mismatch g⟩

/-- Settles O30: either difference makes the operands unequal, and VERIFY has one outcome for that. -/
theorem lengthMismatchComesFirst : Obligations.LengthMismatchComesFirst := by
  intro g s
  refine ⟨fun hlen e r => ?_, fun _ ⟨i, hi, hne⟩ => ?_⟩
  · exact exec_verify_mismatch g (s := { s with expBuf := e, rcvBuf := r }) (not_operandsEqual_of_length hlen)
  · exact exec_verify_mismatch g (not_operandsEqual_of_byte i hi hne)

/-- Settles O31: equality of the operands looks at no byte beyond the lengths. -/
theorem bytesBeyondTheLengthsDoNotCount : Obligations.BytesBeyondTheLengthsDoNotCount := by
  intro g s e r he hr
  refine ⟨_, _, exec_verify g s, exec_verify g _, ?_, rfl, rfl⟩
  have hsame : OperandsEqual { s with expBuf := e, rcvBuf := r } ↔ OperandsEqual s :=
    and_congr_right fun hlen => forall₂_congr fun i hi => by
      show e[i.val] = r[i.val] ↔ _
      rw [he i hi, hr i (hlen ▸ hi)]
  rw [setStatus_vf_vfStatus, setStatus_vf_vfStatus, echoMatches_congr hsame]

/-- Settles O32, clause by clause: each says of its state whether the operands are equal, or equal together with another's. -/
theorem verifyProperties : Obligations.VerifyProperties := by
  intro g s _
  refine ⟨fun hlen hbuf => ?_, fun hshort => ?_, fun i b hi r hr => ?_, exec_verify_sameCode g g (operandsEqual_swap s),
    fun h u hel hrl he hr => exec_verify_sameCode g h (operandsEqual_congr hel hrl he hr)⟩
  · exact exec_verify_match g ⟨hlen.symm, fun i _ => by rw [hbuf]⟩
  · have hlen : s.expLen ≠ s.rcvLen := fun h => by
      rw [h] at hshort
      omega
    exact exec_verify_mismatch g (not_operandsEqual_of_length hlen)
  · have hne : s.expBuf[i.val] ≠ r[i.val] := by
      rw [hr, Vector.getElem_set_self]
      exact (flipBit_ne _ b).symm
    exact exec_verify_mismatch g (s := { s with rcvLen := s.expLen, rcvBuf := r }) (not_operandsEqual_of_byte i hi hne)

end Sys2Proof.Machine

/-!
PROOFS. The family 42_control.md: NOP (R73).
-/

namespace Sys2Proof.Machine

/-- Settles O9: NOP's meaning is the identity, and every command word with OP 00 decodes to a NOP. -/
theorem nopLeavesTheState : Obligations.NopLeavesTheState := by
  refine ⟨exec_nop, fun w s hop => ?_⟩
  have hnop : decode w = .nop (ignoredOf w) := decode_eq_of_opOf hop rfl
  rw [hostWrite_cmd, hnop, exec_nop]

end Sys2Proof.Machine

/-!
PROOFS. The family 60_exceptions.md: what the block reports and that it never stops (R74 to R77), and the host's session with it
(R80 to R82). A session is seen here through two lists: the frame it packed, and the answers of its rounds.
-/

namespace Sys2Proof.Machine

/-! ## No transaction stops (60_exceptions.md R74, R76) -/

theorem statusOf_ne_codeReserved {s : State} (hs : s.InBounds) (c : Channel) : statusOf c s ≠ codeReserved := by
  cases c with
  | tx => exact hs.txCode
  | rx => exact hs.rxCode
  | vf => exact hs.vfCode

theorem reservedCodeAt_of_inBounds {s : State} (hs : s.InBounds) (a : Addr) : reservedCodeAt a s = none :=
  reservedCodeAt_eq_none (fun c _ => statusOf_ne_codeReserved hs c)

/-- From a state in bounds every transaction completes. -/
theorem transact_total {s : State} (hs : s.InBounds) (b : Option Name) (x : Transaction) : ∃ t, transact b x s = .next t := by
  cases x with
  | write a d => exact hostWrite_total a d s
  | read a => exact ⟨_, by rw [transact, reservedCodeAt_of_inBounds hs]⟩
  | reset => exact ⟨_, rfl⟩

/-! ## A host that sends what it has read (30_encoding.md R59; log 6) -/

/-- A bound name has a word. -/
theorem lookupName_of_mem_boundNames {n : Name} {rs : List Reply} (h : n ∈ boundNames rs) :
    ∃ w, lookupName n rs = some w := by
  induction rs with
  | nil => cases h
  | cons r rs ih =>
    rw [lookupName]
    split
    · exact ⟨_, rfl⟩
    · next hne =>
      refine ih ?_
      rw [boundNames] at h
      split at h
      · next m hm =>
        rcases List.mem_cons.mp h with rfl | h
        · exact absurd hm hne
        · exact h
      · exact h

theorem datumWord_of_boundIn {d : Datum} {s : State} (h : d.boundIn (boundNames s.port.replies) = true) :
    ∃ w, datumWord d s = .ok w := by
  cases d with
  | lit w => exact ⟨w, rfl⟩
  | named n =>
    obtain ⟨w, hw⟩ := lookupName_of_mem_boundNames (List.contains_iff_mem.mp h)
    exact ⟨w, by rw [datumWord, hw]⟩

/-- A write is in scope when its datum is, and what follows it is in the same scope. -/
theorem wellScoped_write_iff {bound : List Name} {a : Addr} {d : Datum} {rest : List Line} :
    wellScoped bound (.write a d :: rest) = true ↔ d.boundIn bound = true ∧ wellScoped bound rest = true := by
  rw [wellScoped, Bool.and_eq_true]

/-- A line in scope completes from a state in bounds. -/
theorem runLine_total {l : Line} {rest : List Line} {s : State} (hs : s.InBounds)
    (hl : wellScoped (boundNames s.port.replies) (l :: rest) = true) : ∃ t, runLine l s = .next t := by
  cases l with
  | write a d =>
    obtain ⟨w, hw⟩ := datumWord_of_boundIn (wellScoped_write_iff.mp hl).1
    rw [runLine, hw]
    exact transact_total hs none (.write a w)
  | read a b => exact transact_total hs b (.read a)
  | reset => exact transact_total hs none .reset

theorem port_hostWrite {a : Addr} {w : Word} {s t : State} (h : hostWrite a w s = .next t) : t.port = s.port := by
  rcases hostWrite_cases h with ⟨-, he⟩ | ⟨-, rfl⟩
  · exact port_exec he
  · exact writeReg_port _ _ _

/-- A line in scope leaves the lines after it in scope: a read binds its own name, and no line unbinds one. -/
theorem hostScoped_of_runLine {l : Line} {s t : State}
    (hl : wellScoped (boundNames s.port.replies) (l :: s.port.pending) = true) (h : runLine l s = .next t) :
    t.HostScoped := by
  rcases runLine_cases h with ⟨a, d, w, rfl, -, hw⟩ | ⟨a, b, rfl, -, rfl⟩ | ⟨rfl, rfl⟩
  · rw [State.HostScoped, port_hostWrite hw]
    exact (wellScoped_write_iff.mp hl).2
  · cases b <;> exact hl
  · exact hl

/-- Settles O52: the pending line is in scope, so it completes (`runLine_total`), within the bounds (O50) and with the lines
after it in scope (`hostScoped_of_runLine`). -/
theorem safeRunsNeverStop : Obligations.SafeRunsNeverStop := by
  intro s hs
  cases hp : s.port.pending with
  | nil => exact ⟨s, by rw [step, nextLine, hp], hs⟩
  | cons l rest =>
    have hl : wellScoped (boundNames s.port.replies) (l :: rest) = true := hp ▸ hs.hostOk
    obtain ⟨t, ht⟩ := runLine_total (s := withPending rest s) (inBounds_setPort hs.bounds _) hl
    have hstep : step s = .next t := (step_cons hp).trans ht
    exact ⟨t, hstep, everyStepKeepsBounds s t hs.bounds hstep, hostScoped_of_runLine (s := withPending rest s) hl ht⟩

/-! ## The order of the range checks (60_exceptions.md R77) -/

theorem disjoint_comm (r q : FieldRow) : r.disjoint q = q.disjoint r := Bool.or_comm _ _

/-- What makes a table legal does not speak of the order of its rows. -/
theorem legal_of_perm {T U : FieldTable} (hT : T.legal) (hp : T.Perm U) : U.legal := by
  obtain ⟨hfield, hpair, hbound, hclkr⟩ := hT
  refine ⟨fun f => ?_, ?_, fun r hr => hbound r (hp.mem_iff.mpr hr), hp.mem_iff.mp hclkr⟩
  · obtain ⟨r, hr, hf⟩ := hfield f
    exact ⟨r, hp.mem_iff.mp hr, hf⟩
  · exact hp.pairwise hpair (fun h => ⟨h.1.symm, (disjoint_comm _ _).trans h.2⟩)

theorem allInRange_perm {T U : FieldTable} (hp : T.Perm U) (s : State) : allInRange U s = allInRange T s := by
  rw [Bool.eq_iff_iff, allInRange, allInRange, List.all_eq_true, List.all_eq_true]
  exact forall_congr' fun r => imp_congr_left hp.mem_iff.symm

/-- At most one row of a legal table covers a bit, so its place in the table does not matter. -/
theorem find_covering_perm {T U : FieldTable} (hT : T.legal) (hp : T.Perm U) (j : Nat) :
    U.find? (fun r => r.covers j) = T.find? (fun r => r.covers j) := by
  cases hfind : T.find? (fun r => r.covers j) with
  | none =>
    rw [List.find?_eq_none] at hfind ⊢
    exact fun r hr => hfind r (hp.mem_iff.mpr hr)
  | some r =>
    exact find_covering (legal_of_perm hT hp) (hp.mem_iff.mp (List.mem_of_find?_eq_some hfind))
      (List.find?_some (p := fun q : FieldRow => q.covers j) hfind)

theorem configFrame_perm {T U : FieldTable} (hT : T.legal) (hp : T.Perm U) (s : State) :
    configFrame U s = configFrame T s := by
  have hbit : configBit U s = configBit T s := funext fun j => by
    rw [configBit, configBit, find_covering_perm hT hp]
  rw [configFrame, configFrame, hbit]

/-- Settles O19: the same checks are passed and every bit has the same row. -/
theorem checkOrderDoesNotMatter : Obligations.CheckOrderDoesNotMatter := by
  intro T U s hT hp
  rw [packWith, packWith, allInRange_perm hp, configFrame_perm hT hp]

/-! ## What is reported (60_exceptions.md R74, R75) -/

theorem codeOk_ne_codeError : codeOk ≠ codeError := by decide

/-- PACK reports its error exactly where a field is out of range. -/
theorem exec_pack_error_iff {g : BitVec 14} {s t : State} (h : exec (.pack g) s = .next t) :
    t.txStatus = codeError ↔ ¬ s.fields.Fit := by
  by_cases hfit : s.fields.Fit
  · rw [exec_pack_of_fit g hfit] at h
    cases h
    exact iff_of_false codeOk_ne_codeError (not_not_intro hfit)
  · rw [exec_pack_of_not_fit g hfit] at h
    cases h
    exact iff_of_true rfl hfit

/-- PACK's error changes one status register (60_exceptions.md R74). -/
theorem exec_pack_error {g : BitVec 14} {s t : State} (h : exec (.pack g) s = .next t) (he : t.txStatus = codeError) :
    t = raiseError .tx s := by
  rw [exec_pack_of_not_fit g ((exec_pack_error_iff h).mp he)] at h
  exact (Host.Outcome.next.inj h).symm

/-- UNPACK reports its error exactly where RX_LEN is below 19. -/
theorem exec_unpack_error_iff {g : BitVec 14} {s t : State} (h : exec (.unpack g) s = .next t) :
    t.rxStatus = codeError ↔ s.rxLen.toNat < 19 := by
  rcases Nat.lt_or_ge s.rxLen.toNat 19 with hl | hl
  · rw [exec_unpack_short g hl] at h
    cases h
    exact iff_of_true rfl hl
  · rw [exec_unpack_full g hl] at h
    cases h
    exact iff_of_false codeOk_ne_codeError (Nat.not_lt.mpr hl)

/-- UNPACK's error changes one status register (60_exceptions.md R74). -/
theorem exec_unpack_error {g : BitVec 14} {s t : State} (h : exec (.unpack g) s = .next t) (he : t.rxStatus = codeError) :
    t = raiseError .rx s := by
  rw [exec_unpack_short g ((exec_unpack_error_iff h).mp he)] at h
  exact (Host.Outcome.next.inj h).symm

/-- VERIFY reports a mismatch exactly where its operands differ. -/
theorem exec_verify_error_iff {g : BitVec 14} {s t : State} (h : exec (.verify g) s = .next t) :
    t.vfStatus = codeError ↔ ¬ OperandsEqual s := by
  by_cases heq : OperandsEqual s
  · rw [exec_verify_match g heq] at h
    cases h
    exact iff_of_false codeOk_ne_codeError (not_not_intro heq)
  · rw [exec_verify_mismatch g heq] at h
    cases h
    exact iff_of_true rfl heq

/-- A mismatch changes one status register. -/
theorem exec_verify_error {g : BitVec 14} {s t : State} (h : exec (.verify g) s = .next t) (he : t.vfStatus = codeError) :
    t = setStatus .vf codeError s := by
  rw [exec_verify_mismatch g ((exec_verify_error_iff h).mp he)] at h
  exact (Host.Outcome.next.inj h).symm

/-- Operands differ in their lengths or in a byte below the expected length (41_echo_verifier.md R70). -/
theorem not_operandsEqual_iff {s : State} :
    ¬ OperandsEqual s ↔ s.expLen ≠ s.rcvLen ∨ ∃ i : Fin 64, i.val < s.expLen.toNat ∧ s.expBuf[i.val] ≠ s.rcvBuf[i.val] := by
  simp only [OperandsEqual, not_and_or, not_forall, exists_prop, ne_eq]

/-- An operation that changes a channel's status is the channel's own. -/
theorem channel_of_statusOf_ne {i : Instr} {s t : State} (h : exec i s = .next t) {c : Channel}
    (hne : statusOf c t ≠ statusOf c s) : i.channel = some c :=
  by_contra fun hc => hne (statusOf_exec h hc)

theorem channel_eq_tx {i : Instr} (h : i.channel = some .tx) : ∃ g, i = .pack g := by
  cases i <;> cases h
  exact ⟨_, rfl⟩

theorem channel_eq_rx {i : Instr} (h : i.channel = some .rx) : ∃ g, i = .unpack g := by
  cases i <;> cases h
  exact ⟨_, rfl⟩

theorem channel_eq_vf {i : Instr} (h : i.channel = some .vf) : ∃ g, i = .verify g := by
  cases i <;> cases h
  exact ⟨_, rfl⟩

/-- Settles O34: `exec_pack_error`, `exec_unpack_error`, and an operation keeps the bounds from which no transaction stops. -/
theorem errorReportIsPrecise : Obligations.ErrorReportIsPrecise :=
  ⟨fun _ _ _ => exec_pack_error, fun _ _ _ => exec_unpack_error, fun _ _ _ hs h => transact_total (inBounds_exec hs h)⟩

/-- Settles O35: for each operation its condition and its one change, then what changes no status and never stops. -/
theorem reportedConditionsAreComplete : Obligations.ReportedConditionsAreComplete :=
  ⟨fun _ _ _ h => ⟨exec_pack_error_iff h, exec_pack_error h⟩,
    fun _ _ _ h => ⟨exec_unpack_error_iff h, exec_unpack_error h⟩,
    fun _ _ _ _ h => ⟨(exec_verify_error_iff h).trans not_operandsEqual_iff, exec_verify_error h⟩,
    fun _ _ _ h => ⟨fun hne => channel_eq_tx (channel_of_statusOf_ne h (c := .tx) hne),
      fun hne => channel_eq_rx (channel_of_statusOf_ne h (c := .rx) hne),
      fun hne => channel_eq_vf (channel_of_statusOf_ne h (c := .vf) hne)⟩,
    fun _ b x hs => transact_total hs b x,
    exec_nop⟩

/-! ## A round of a session (60_exceptions.md R80 (2), R82) -/

/-- The code VERIFY reports (41_echo_verifier.md R69). -/
def verdict (s : State) : BitVec 2 := if echoMatches s then codeOk else codeError

theorem verdict_ne_codeReserved (s : State) : verdict s ≠ codeReserved := by
  rw [verdict]
  split <;> decide

/-- The state after a VERIFY whose code the host then reads. -/
def afterVerify (s : State) : State := answer none ((verdict s).setWidth 16) (setStatus .vf (verdict s) s)

/-- The last two source lines of a round, as lines. -/
theorem runLines_verify_then_read (s : State) : runLines [wrLit 0 3, .read 0x03#8 none] s = .next (afterVerify s) := by
  have hverify : runLine (wrLit 0 3) s = .next (setStatus .vf (verdict s) s) := runLine_cmd 3 s
  have hreg : regAt 0x03#8 = .status .vf := by decide
  have hcode : reservedCodeAt 0x03#8 (setStatus .vf (verdict s) s) = none := by
    refine reservedCodeAt_eq_none (fun c h => ?_)
    cases hreg.symm.trans h
    exact verdict_ne_codeReserved s
  have hread : runLine (.read 0x03#8 none) (setStatus .vf (verdict s) s) = .next (afterVerify s) := by
    rw [runLine, transact, hcode]
    rfl
  simp only [runLines, hverify, hread]

/-- A round loads the received bytes and their count, then verifies (60_exceptions.md R80 (2)). -/
theorem runLines_roundSource {received : List Byte} (h : received.length ≤ Config.vmax) (s : State) :
    ∃ b : Vector Byte 64,
      runLines (expandAll (roundSource received)) s =
        .next (afterVerify { s with rcvBuf := b, rcvLen := BitVec.ofNat 7 received.length }) ∧
      ∀ (k : Fin 64) (hk : k.val < received.length), b[k.val] = received[k.val] := by
  obtain ⟨-, -, hload⟩ := loadsFillBufferAndLength received s
  obtain ⟨b, hrun, hb⟩ := hload h
  refine ⟨b, ?_, fun k hk => by rw [hb k, dif_pos hk]⟩
  show runLines (expand (.loadRcv (received.map byteDatum)) ++ [wrLit 0 3, .read 0x03#8 none]) s = _
  rw [runLines_append hrun, runLines_verify_then_read]

/-- Counts within 7 bits are equal as the length registers hold them. -/
theorem length_ofNat_eq_iff {n m : Nat} (hn : n < 2 ^ 7) (hm : m < 2 ^ 7) :
    BitVec.ofNat 7 n = BitVec.ofNat 7 m ↔ n = m := by
  rw [← BitVec.toNat_inj, BitVec.toNat_ofNat, BitVec.toNat_ofNat, Nat.mod_eq_of_lt hn, Nat.mod_eq_of_lt hm]

/-- With fifteen bytes expected, the operands are equal exactly when those fifteen were received (60_exceptions.md R82). -/
theorem operandsEqual_received_iff {s : State} {received : List Byte} {b : Vector Byte 64} (he : s.expLen = 15#7)
    (hlen : received.length ≤ 15) (hb : ∀ (k : Fin 64) (hk : k.val < received.length), b[k.val] = received[k.val]) :
    OperandsEqual { s with rcvBuf := b, rcvLen := BitVec.ofNat 7 received.length } ↔
      received = s.expBuf.toList.take 15 := by
  have hcount : (15#7 = BitVec.ofNat 7 received.length) ↔ 15 = received.length :=
    length_ofNat_eq_iff (by decide) (by omega)
  simp only [OperandsEqual, he, hcount]
  constructor
  · rintro ⟨h15, hbytes⟩
    refine List.ext_getElem (by simp [← h15]) (fun i hi _ => ?_)
    have hi15 : i < 15 := h15 ▸ hi
    rw [List.getElem_take, Vector.getElem_toList, ← hb ⟨i, by omega⟩ hi]
    exact (hbytes ⟨i, by omega⟩ hi15).symm
  · intro heq
    have h15 : 15 = received.length := by simp [heq]
    refine ⟨h15, fun i (hi : i.val < 15) => ?_⟩
    rw [hb i (h15 ▸ hi)]
    simp only [heq, List.getElem_take, Vector.getElem_toList]

/-- The word of a verdict: 1 for equal operands, else 2. -/
theorem verdict_setWidth (s : State) {p : Prop} [Decidable p] (h : OperandsEqual s ↔ p) :
    (verdict s).setWidth 16 = if p then 0x0001#16 else 0x0002#16 := by
  have hp : echoMatches s = true ↔ p := (echoMatches_iff s).trans h
  rw [verdict]
  by_cases h : p
  · rw [if_pos h, if_pos (hp.mpr h)]
    rfl
  · rw [if_neg h, if_neg (mt hp.mp h)]
    rfl

/-- Settles O56: a round writes RCV_*, VF_STATUS and the answer, which is the verdict on the bytes received. -/
theorem roundMatchesExactEchoOnly : Obligations.RoundMatchesExactEchoOnly := by
  intro s received he hlen
  obtain ⟨b, hrun, hb⟩ := runLines_roundSource (hlen.trans Config.vmax_ge) s
  refine ⟨_, hrun, rfl, rfl, rfl, rfl, rfl, ?_⟩
  rw [← verdict_setWidth _ (operandsEqual_received_iff he hlen hb)]
  rfl

/-! ## The rounds of a session (60_exceptions.md R80, R81) -/

/-- The expected operand, the configuration and the frame are the same in both states (60_exceptions.md R81). -/
structure SameOperands (s t : State) : Prop where
  expBuf  : t.expBuf = s.expBuf
  expLen  : t.expLen = s.expLen
  ce      : t.ce = s.ce
  fields  : t.fields = s.fields
  txFrame : t.txFrame = s.txFrame

theorem SameOperands.refl (s : State) : SameOperands s s := ⟨rfl, rfl, rfl, rfl, rfl⟩

theorem SameOperands.trans {s t u : State} (h : SameOperands s t) (k : SameOperands t u) : SameOperands s u :=
  ⟨k.expBuf.trans h.expBuf, k.expLen.trans h.expLen, k.ce.trans h.ce, k.fields.trans h.fields, k.txFrame.trans h.txFrame⟩

/-- The answer of a round in which these bytes were expected (60_exceptions.md R82). -/
def roundReply (expected received : List Byte) : Reply := ⟨none, if received = expected then 0x0001#16 else 0x0002#16⟩

/-- Every round runs, each on the operands of the first, and its answer stands before those of the earlier ones. -/
theorem runLines_rounds {rounds : List (List Byte)} (hlen : ∀ r ∈ rounds, r.length ≤ 15) {s : State} (he : s.expLen = 15#7) :
    ∃ t, runLines (expandAll (rounds.flatMap roundSource)) s = .next t ∧ SameOperands s t ∧
      t.port.replies = (rounds.map (roundReply (s.expBuf.toList.take 15))).reverse ++ s.port.replies := by
  induction rounds generalizing s with
  | nil => exact ⟨s, rfl, .refl s, rfl⟩
  | cons r rounds ih =>
    obtain ⟨hr, hrest⟩ := List.forall_mem_cons.mp hlen
    obtain ⟨u, hrun, hbuf, hexp, hce, hfields, hframe, hreply⟩ := roundMatchesExactEchoOnly s r he hr
    obtain ⟨t, hruns, hsame, hreplies⟩ := ih hrest (s := u) (hexp.trans he)
    have hsplit : expandAll ((r :: rounds).flatMap roundSource) =
        expandAll (roundSource r) ++ expandAll (rounds.flatMap roundSource) := by
      simp [expandAll]
    refine ⟨t, ?_, .trans ⟨hbuf, hexp, hce, hfields, hframe⟩ hsame, ?_⟩
    · rw [hsplit, runLines_append hrun, hruns]
    · rw [hreplies, hbuf, hreply]
      simp [roundReply]

/-- The tally over the answers of the rounds counts those that echoed something else (60_exceptions.md R80 (2)). -/
theorem mismatchTally_of_replies {t : State} {rounds : List (List Byte)} {expected : List Byte} {earlier : List Reply}
    (h : t.port.replies = (rounds.map (roundReply expected)).reverse ++ earlier) :
    mismatchTally rounds.length t = rounds.countP (fun r => decide (r ≠ expected)) := by
  rw [mismatchTally, h, List.take_left' (by simp), List.countP_reverse, List.countP_map]
  refine List.countP_congr (fun r _ => ?_)
  by_cases hr : r = expected <;> simp [roundReply, hr]

/-- A session succeeds exactly when every round echoed what was expected (60_exceptions.md R80 (3)). -/
theorem sessionOutcome_eq_success_iff {t : State} {rounds : List (List Byte)} {expected : List Byte}
    (h : mismatchTally rounds.length t = rounds.countP (fun r => decide (r ≠ expected))) :
    sessionOutcome rounds.length t = .success ↔ ∀ r ∈ rounds, r = expected := by
  have hzero : mismatchTally rounds.length t = 0 ↔ ∀ r ∈ rounds, r = expected := by
    rw [h, List.countP_eq_zero]
    simp
  rw [sessionOutcome, ← hzero]
  by_cases h0 : mismatchTally rounds.length t = 0 <;> simp [h0]

/-! ## A whole session (60_exceptions.md R80, R81) -/

/-- A list whose first fifteen places hold a frame begins with it. -/
theorem take_toList_eq {e : Vector Byte 64} {frame : Vector Byte 15} (h : ∀ k : Fin 15, e[k.val] = frame[k.val]) :
    e.toList.take 15 = frame.toList := by
  refine List.ext_getElem (by simp) (fun i _ hi => ?_)
  rw [List.getElem_take, Vector.getElem_toList, Vector.getElem_toList]
  exact h ⟨i, by simpa using hi⟩

/-- After a successful PACK the frame becomes the expected operand and every round runs on it (60_exceptions.md R81). -/
theorem runLines_sessionRounds {rounds : List (List Byte)} (hlen : ∀ r ∈ rounds, r.length ≤ 15) (s : State) :
    ∃ t, runLines (expandAll (sessionRounds rounds)) s = .next t ∧ t.txFrame = s.txFrame ∧
      t.expBuf.toList.take 15 = s.txFrame.toList ∧ t.expLen = 15#7 ∧ t.ce = s.ce ∧ t.fields = s.fields ∧
      ∃ earlier, t.port.replies = (rounds.map (roundReply s.txFrame.toList)).reverse ++ earlier := by
  obtain ⟨e, rs, hcopy, -, hframe, -⟩ := copyTxLoadsTheFrame s
  have hexp : e.toList.take 15 = s.txFrame.toList := take_toList_eq hframe
  obtain ⟨t, hrun, hsame, hreplies⟩ := runLines_rounds hlen
    (s := { s with expBuf := e, expLen := 15#7, port := { s.port with replies := rs ++ s.port.replies } }) rfl
  refine ⟨t, ?_, hsame.txFrame, by rw [hsame.expBuf, hexp], hsame.expLen, hsame.ce, hsame.fields, _, hexp ▸ hreplies⟩
  have hsplit : expandAll (sessionRounds rounds) = expand .copyTx ++ expandAll (rounds.flatMap roundSource) := by
    simp [expandAll, sessionRounds]
  rw [hsplit, runLines_append hcopy, hrun]

/-- The state in which a session goes on: the frame is packed and the host has read VALID. -/
def afterPack (s : State) : State :=
  answer none 0x0001#16 (setStatus .tx codeOk (loadFrame (configFrame Config.fieldTable s) s))

/-- A session with an in-range configuration is its rounds, run from the packed state (60_exceptions.md R80). -/
theorem runSession_of_fit {rounds : List (List Byte)} {s t : State} (hfit : s.fields.Fit)
    (h : runLines (expandAll (sessionRounds rounds)) (afterPack s) = .next t) :
    runSession rounds s = .next (t, some (sessionOutcome rounds.length t)) := by
  have hstart : runLines (expandAll sessionStart) s = .next (afterPack s) := by
    rw [runLines_sessionStart, packWith_of_inRange ((fit_iff_allInRange s).mp hfit)]
    rfl
  have hvalid : packSucceeded (afterPack s) = true := rfl
  simp only [runSession, hstart, hvalid, h, if_true]

/-- Settles O57: the rounds run from the packed state, and tally and outcome are read off their answers. -/
theorem sessionSucceedsIffEveryEchoIsExact : Obligations.SessionSucceedsIffEveryEchoIsExact := by
  intro s rounds hfit hlen
  obtain ⟨t, hrun, hframe, hexp, hexpLen, hce, hfields, earlier, hreplies⟩ := runLines_sessionRounds hlen (afterPack s)
  have htally := mismatchTally_of_replies hreplies
  exact ⟨t, _, runSession_of_fit hfit hrun, hframe, hexp, hexpLen, hce, hfields, htally, sessionOutcome_eq_success_iff htally⟩

/-- Settles O58: the host reads OUT_OF_RANGE, which is not VALID. -/
theorem sessionEndsAtAFailedPack : Obligations.SessionEndsAtAFailedPack := by
  intro s rounds hfit
  rw [fit_iff_allInRange, Bool.not_eq_true] at hfit
  rw [runSession, runLines_sessionStart, packWith_of_outOfRange hfit]
  rfl

/-! ## What the lines of a round write (60_exceptions.md R81) -/

/-- An address outside EXP_LEN, EXP_BUF, CE and F_*. -/
def OutsideOperands (a : Addr) : Prop :=
  a ≠ 0x05#8 ∧ ¬ (0x80 ≤ a.toNat ∧ a.toNat ≤ 0xBF) ∧ ¬ (0x08 ≤ a.toNat ∧ a.toNat ≤ 0x19)

/-- What the host of a session may issue after the frame is loaded (60_exceptions.md R81). -/
inductive RoundLine : Line → Prop where
  | write (a : Addr) (d : Datum) (ha : OutsideOperands a) (hc : a ≠ 0x00#8) : RoundLine (.write a d)
  | verify : RoundLine (.write 0x00#8 (.lit 0x0003#16))
  | read (a : Addr) (b : Option Name) : RoundLine (.read a b)

theorem rcvBuf_address_toNat {k : Nat} (hk : k < 64) : (BitVec.ofNat 8 (0xC0 + k)).toNat = 0xC0 + k := by
  rw [BitVec.toNat_ofNat, Nat.mod_eq_of_lt (by omega)]

/-- An address below RCV_BUF is not the address of one of its places (20_memory.md R30). -/
theorem rcvBuf_address_ne {k : Nat} (hk : k < 64) {a : Addr} (ha : a.toNat < 0xC0) : BitVec.ofNat 8 (0xC0 + k) ≠ a := by
  rintro rfl
  rw [rcvBuf_address_toNat hk] at ha
  omega

/-- The lines that load bytes into RCV_BUF are writes to its places. -/
theorem roundLine_of_mem_loadLines {ds : List Datum} {k : Nat} (hk : k + ds.length ≤ 64) {l : Line}
    (hl : l ∈ loadLines (0xC0 + k) ds) : RoundLine l := by
  induction ds generalizing k with
  | nil => cases hl
  | cons d ds ih =>
    rw [List.length_cons] at hk
    rcases List.mem_cons.mp hl with rfl | hl
    · have hk64 : k < 64 := by omega
      have ha := rcvBuf_address_toNat hk64
      exact .write _ _ ⟨rcvBuf_address_ne hk64 (by decide), by omega, by omega⟩ (rcvBuf_address_ne hk64 (by decide))
    · exact ih (k := k + 1) (by omega) hl

theorem roundLine_of_mem_roundSource {received : List Byte} (h : received.length ≤ 15) {l : Line}
    (hl : l ∈ expandAll (roundSource received)) : RoundLine l := by
  have hlines : expandAll (roundSource received) =
      loadLines 0xC0 (received.map byteDatum) ++
        [wrLit 0x06 (received.map byteDatum).length, wrLit 0x00 0x0003, .read 0x03#8 none] := by
    simp [expandAll, roundSource, expand]
  rw [hlines, List.mem_append] at hl
  rcases hl with hl | hl
  · exact roundLine_of_mem_loadLines (k := 0) (by simp; omega) hl
  · simp only [List.mem_cons, List.not_mem_nil, or_false] at hl
    rcases hl with rfl | rfl | rfl
    · exact .write _ _ (by unfold OutsideOperands; decide) (by decide)
    · exact .verify
    · exact .read _ _

/-- Settles O59: every line of a round is a `RoundLine`. -/
theorem sessionRoundsKeepTheOperands : Obligations.SessionRoundsKeepTheOperands := by
  intro rounds hlen l hl
  rw [expandAll, List.flatMap_assoc, List.mem_flatMap] at hl
  obtain ⟨r, hr, hl⟩ := hl
  cases roundLine_of_mem_roundSource (hlen r hr) hl with
  | write a d ha hc =>
    refine ⟨nofun, fun b e heq => ?_⟩
    cases heq
    obtain ⟨hlen, hbuf, hconf⟩ := ha
    exact ⟨hlen, hbuf, hconf, fun h => absurd h hc⟩
  | verify =>
    refine ⟨nofun, fun b e heq => ?_⟩
    cases heq
    decide
  | read a b => exact ⟨nofun, nofun⟩

end Sys2Proof.Machine

/-!
PROOFS. The family 70_reset_and_hazards.md: what RESET sets and what the block does right after it (R84, R85), and why the
order of the host's writes does not matter (R86, R88). A write is seen here through the one component of the state it changes:
two components are updated in either order, and so are two places of one.
-/

namespace Sys2Proof.Machine

/-! ## Outputs are snapshots (70_reset_and_hazards.md R88) -/

/-- Settles O38: a write other than to CMD is `writeReg`, which reaches no output, no status and not the port. -/
theorem outputsAreSnapshots : Obligations.OutputsAreSnapshots := fun a d s ha =>
  ⟨writeReg (regAt a) d s, hostWrite_of_ne ha d s, writeReg_txStatus _ d s, writeReg_rxStatus _ d s, writeReg_vfStatus _ d s,
    writeReg_txFrame _ d s, writeReg_tL5 _ d s, writeReg_tL4 _ d s, writeReg_tL3 _ d s, writeReg_tL2Busy _ d s,
    writeReg_tL2Done _ d s, writeReg_port _ d s⟩

/-! ## Writes commute (70_reset_and_hazards.md R86, 20_memory.md R43) -/

/-- A verifier buffer after a write to one of its places; a place beyond VMAX keeps nothing (20_memory.md R34). -/
def storePlace (i : Fin 64) (d : Word) (b : Vector Byte 64) : Vector Byte 64 :=
  if placeExists i then b.set i.val (lowByte d) i.isLt else b

/-- A write to EXP_BUF changes EXP_BUF only, also where its place does not exist. -/
@[simp] theorem writeReg_expBuf_storePlace (i : Fin 64) (d : Word) (s : State) :
    writeReg (.expBuf i) d s = { s with expBuf := storePlace i d s.expBuf } := by
  rw [writeReg_expBuf_eq, storePlace]
  split <;> rfl

/-- A write to RCV_BUF changes RCV_BUF only, also where its place does not exist. -/
@[simp] theorem writeReg_rcvBuf_storePlace (i : Fin 64) (d : Word) (s : State) :
    writeReg (.rcvBuf i) d s = { s with rcvBuf := storePlace i d s.rcvBuf } := by
  rw [writeReg_rcvBuf_eq, storePlace]
  split <;> rfl

theorem set_comm_of_fin_ne {n : Nat} (b : Vector Byte n) {i j : Fin n} (h : j ≠ i) (v w : Byte) :
    (b.set i.val v i.isLt).set j.val w j.isLt = (b.set j.val w j.isLt).set i.val v i.isLt :=
  Vector.set_comm v w (fun he => h (Fin.ext he.symm))

theorem storePlace_comm {i j : Fin 64} (h : j ≠ i) (d e : Word) (b : Vector Byte 64) :
    storePlace j e (storePlace i d b) = storePlace i d (storePlace j e b) := by
  unfold storePlace
  split
  · split
    · exact set_comm_of_fin_ne b h _ _
    · rfl
  · rfl

theorem FieldRegs.set_comm (r : FieldRegs) {f g : Field} (h : g ≠ f) (v w : Word) :
    (r.set f v).set g w = (r.set g w).set f v := by
  cases f <;> cases g <;> first | rfl | exact absurd rfl h

/-- Writes to two different registers commute: they change two components of the state, or two places of one. -/
theorem writeReg_comm {q r : Reg} (h : q ≠ r) (d e : Word) (s : State) :
    writeReg q e (writeReg r d s) = writeReg r d (writeReg q e s) := by
  cases r with
  | rxLen | expLen | rcvLen =>
    cases q with
    | rxLen | expLen | rcvLen => first | rfl | exact absurd rfl h
    | expBuf j | rcvBuf j => simp
    | _ => rfl
  | ce i =>
    cases q with
    | ce j => simp [set_comm_of_fin_ne s.ce (mt (congrArg Reg.ce) h)]
    | expBuf j | rcvBuf j => simp
    | _ => rfl
  | field f =>
    cases q with
    | field g => simp [FieldRegs.set_comm s.fields (mt (congrArg Reg.field) h)]
    | expBuf j | rcvBuf j => simp
    | _ => rfl
  | rxBuf i =>
    cases q with
    | rxBuf j => simp [set_comm_of_fin_ne s.rxBuf (mt (congrArg Reg.rxBuf) h)]
    | expBuf j | rcvBuf j => simp
    | _ => rfl
  | expBuf i =>
    rw [writeReg_expBuf_storePlace, writeReg_expBuf_storePlace]
    cases q with
    | expBuf j => simp [storePlace_comm (mt (congrArg Reg.expBuf) h)]
    | rcvBuf j => simp
    | _ => rfl
  | rcvBuf i =>
    rw [writeReg_rcvBuf_storePlace, writeReg_rcvBuf_storePlace]
    cases q with
    | expBuf j => simp
    | rcvBuf j => simp [storePlace_comm (mt (congrArg Reg.rcvBuf) h)]
    | _ => rfl
  | _ => rfl

/-- The writes at two addresses commute: only reserved places share a name, and those keep nothing. -/
theorem writeReg_regAt_comm {a b : Addr} (h : a ≠ b) (d e : Word) (s : State) :
    writeReg (regAt b) e (writeReg (regAt a) d s) = writeReg (regAt a) d (writeReg (regAt b) e s) := by
  by_cases hb : regAt b = .reserved
  · rw [hb]
    rfl
  · exact writeReg_comm (fun he => h (regAt_injective he hb).symm) d e s

/-- Settles O46: away from CMD the two host writes are the two register writes. -/
theorem writesToDifferentRegistersCommute : Obligations.WritesToDifferentRegistersCommute := fun _ _ d e s hab ha hb =>
  ⟨_, _, _, hostWrite_of_ne ha d s, hostWrite_of_ne hb e _, hostWrite_of_ne hb e s,
    (hostWrite_of_ne ha d _).trans (congrArg Host.Outcome.next (writeReg_regAt_comm hab d e s).symm)⟩

/-! ## RESET (70_reset_and_hazards.md R84, R85) -/

/-- At power-on the registers are those of RESET, so RESET changes nothing there (70_reset_and_hazards.md R84). -/
theorem resetRegisters_reset : resetRegisters State.reset = State.reset := rfl

theorem FieldRegs.get_reset (f : Field) : FieldRegs.reset.get f = 0x0000#16 := by
  cases f <;> rfl

theorem inBounds_reset : State.reset.InBounds := resetRegisters_reset ▸ inBounds_resetRegisters State.reset

theorem emptyMeansReset_reset : State.reset.EmptyMeansReset :=
  resetRegisters_reset ▸ emptyMeansReset_resetRegisters State.reset

/-- The host has nothing to issue, so nothing to send that it has not read (log 11). -/
theorem hostScoped_reset : State.reset.HostScoped := rfl

/-- Settles O49: what RESET leaves is in bounds and means EMPTY, and the reset state is what RESET leaves of itself. -/
theorem invariantsHoldAtReset : Obligations.InvariantsHoldAtReset :=
  ⟨inBounds_reset, emptyMeansReset_reset, inBounds_reset, hostScoped_reset⟩

/-- Settles O47: RESET is `resetRegisters`, whose buffers are filled with zero bytes. -/
theorem resetZeroesEveryRegister : Obligations.ResetZeroesEveryRegister := fun s _ =>
  ⟨resetRegisters s, rfl, rfl, rfl, rfl, rfl, rfl, rfl, rfl, fun k => Vector.getElem_replicate k.isLt, FieldRegs.get_reset,
    fun k => Vector.getElem_replicate k.isLt, fun k => Vector.getElem_replicate k.isLt, rfl, rfl, rfl, rfl, rfl,
    fun i => Vector.getElem_replicate i.isLt, fun i => Vector.getElem_replicate i.isLt⟩

theorem fit_reset : State.reset.fields.Fit := by
  constructor <;> exact Nat.zero_le _

/-- The all-zero configuration packs to fifteen zero bytes (70_reset_and_hazards.md R85). -/
theorem configFrame_reset : configFrame Config.fieldTable State.reset = Vector.replicate 15 0x00#8 := by
  rw [configFrame_eq_formulaFrame fit_reset]
  decide

/-- Both operands are empty (70_reset_and_hazards.md R85). -/
theorem operandsEqual_reset : OperandsEqual State.reset :=
  ⟨rfl, fun _ hi => absurd hi (Nat.not_lt_zero _)⟩

/-- Settles O48: the configuration fits, RX_LEN is below 19, the operands are equal, and the state is in bounds. -/
theorem operationsRightAfterReset : Obligations.OperationsRightAfterReset := by
  refine ⟨fun g => ⟨?_, exec_unpack_short g (by decide), exec_verify_match g operandsEqual_reset⟩,
    transact_total inBounds_reset⟩
  rw [exec_pack_of_fit g fit_reset, configFrame_reset]
  rfl

end Sys2Proof.Machine
